-- ==== Sys2Proof/Word.lean ====
section
/-! DEFINITION. The word widths of the block: 16-bit registers and values (R9), the 32-bit response word (R84),
the 64-bit command word (R74). -/

namespace Sys2Proof

/-- A device register, a ConfigWord or a transport datum (R9). -/
abbrev Word16 := BitVec 16

/-- The response word `rsp[31:0]` (R84). -/
abbrev Word32 := BitVec 32

/-- The command word `cmd[63:0]` (R74). -/
abbrev Word64 := BitVec 64

end Sys2Proof
end

