-- ==== Sys2Proof/Syntax.lean ====
section
/-! DEFINITION. The twelve commands of the block as abstract commands with `int` operands (R73, R75, R82).
One constructor per row of spec/opcode_table.json. -/

namespace Sys2Proof

/-- The abstract operand `mode` of ENCODE_CONFIG and the operating mode of a ConfigWord (R64). -/
inductive ConvMode where
  | continuous
  | singleShot
deriving DecidableEq, Repr

/-- A command of the host (R75). Index and threshold operands are mathematical integers, so that "out of range" has
a meaning (R11); an absent optional operand is `none` (R79, R86). -/
inductive Instr where
  /-- ENCODE_CONFIG mode, rate, chan, gain, cmp (R76, R92). -/
  | encodeConfig (mode : ConvMode) (rate chan gain : Int) (cmp : Bool)
  /-- DECODE_CONFIG raw (R77, R93). -/
  | decodeConfig (raw : Word16)
  /-- DECODE_SAMPLE raw (R77, R94). -/
  | decodeSample (raw : Word16)
  /-- ENCODE_THRESHOLD value (R78, R95). -/
  | encodeThreshold (value : Int)
  /-- BLOCKING_READ rate, ch1, ch2 or absent (R79, R112). -/
  | blockingRead (rate ch1 : Int) (ch2 : Option Int)
  /-- SET_CONV rate, ch1, ch2 or absent (R79, R113). -/
  | setConv (rate ch1 : Int) (ch2 : Option Int)
  /-- READ_REV (R80, R114). -/
  | readRev
  /-- ALERT_START rate, ch1, ch2 or absent, thr or absent (R79, R115). -/
  | alertStart (rate ch1 : Int) (ch2 thr : Option Int)
  /-- ALERT_READ (R80, R116). -/
  | alertRead
  /-- CONVERSION_START rate, ch1, ch2 or absent (R79, R117). -/
  | conversionStart (rate ch1 : Int) (ch2 : Option Int)
  /-- WRITE_REGISTER idx, value (R81, R140). -/
  | writeRegister (idx : Int) (value : Word16)
  /-- READ_REGISTER idx (R81, R141). -/
  | readRegister (idx : Int)
deriving DecidableEq, Repr

end Sys2Proof
end

