-- ==== Sys2Proof/WellFormed.lean ====
section
/-! DEFINITION. Which abstract commands have a command word (R82): every integer operand fits its signed field.
A command that is not well-formed in this sense still has the meaning its rule gives it, and no word.
Mark: DEDUCED, log 12. -/

namespace Sys2Proof

/-- `i` fits an s8 field (R82). -/
def fitsS8 (i : Int) : Bool := decide (-128 ≤ i ∧ i ≤ 127)

/-- `i` fits an s32 field (R82). -/
def fitsS32 (i : Int) : Bool := decide (-2147483648 ≤ i ∧ i ≤ 2147483647)

/-- An optional operand fits when it is absent or its value fits. -/
def optionFits (fits : Int → Bool) : Option Int → Bool
  | none => true
  | some i => fits i

/-- The command can be carried by a command word (R82). -/
def Instr.wf : Instr → Bool
  | .encodeConfig _ rate chan gain _ => fitsS8 rate && fitsS8 chan && fitsS8 gain
  | .decodeConfig _ => true
  | .decodeSample _ => true
  | .encodeThreshold value => fitsS32 value
  | .blockingRead rate ch1 ch2 => fitsS8 rate && fitsS8 ch1 && optionFits fitsS8 ch2
  | .setConv rate ch1 ch2 => fitsS8 rate && fitsS8 ch1 && optionFits fitsS8 ch2
  | .readRev => true
  | .alertStart rate ch1 ch2 thr => fitsS8 rate && fitsS8 ch1 && optionFits fitsS8 ch2 && optionFits fitsS32 thr
  | .alertRead => true
  | .conversionStart rate ch1 ch2 => fitsS8 rate && fitsS8 ch1 && optionFits fitsS8 ch2
  | .writeRegister idx _ => fitsS8 idx
  | .readRegister idx => fitsS8 idx

end Sys2Proof
end

