-- ==== Sys2Proof/Decode.lean ====
section
/-! DEFINITION. The command word (30_encoding.md Part C): the decoder, total over all 2^64 words and refusing by
name, the encoder, and the table word of the opcode table. -/

namespace Sys2Proof

/-- Why a command word is illegal (R83). The block answers every one of them alike (R160). -/
inductive Illegal where
  /-- `op` is 0x0, 0xD, 0xE or 0xF. -/
  | reservedOpcode
  /-- A must-be-0 bit of the format is 1. -/
  | mustBeZero
  /-- `ch2` is not 0 although `ch2p` is 0. -/
  | channel2WithoutPresence
  /-- `thr` is not 0 although `thrp` is 0. -/
  | thresholdWithoutPresence
  /-- `thrp` is 1 and `op` is not 0x8. -/
  | thresholdNotTaken
deriving DecidableEq, Repr

/-- The field `w[lo+len-1 : lo]` (R10). -/
def bits (w : Word64) (lo len : Nat) : BitVec len := w.extractLsb' lo len

/-- The same field read as two's complement (R74). -/
def signedBits (w : Word64) (lo len : Nat) : Int := (bits w lo len).toInt

/-- The mode bit of a word: 1 is single-shot, 0 is continuous (R64). -/
def modeOfBit (b : BitVec 1) : ConvMode := if b = 1 then .singleShot else .continuous

/-- The bit of a mode (R64). -/
def modeBit : ConvMode → BitVec 1
  | .singleShot => 1
  | .continuous => 0

/-- Format E (R76). -/
def decodeFormatE (w : Word64) : Except Illegal Instr :=
  if bits w 0 34 = 0 then
    .ok (.encodeConfig (modeOfBit (bits w 35 1)) (signedBits w 52 8) (signedBits w 44 8) (signedBits w 36 8)
      (bits w 34 1 == 1))
  else .error .mustBeZero

/-- Format V16 (R77), for the command `make`. -/
def decodeFormatV16 (make : Word16 → Instr) (w : Word64) : Except Illegal Instr :=
  if bits w 16 44 = 0 then .ok (make (bits w 0 16)) else .error .mustBeZero

/-- Format V32 (R78). -/
def decodeFormatV32 (w : Word64) : Except Illegal Instr :=
  if bits w 32 28 = 0 then .ok (.encodeThreshold (signedBits w 0 32)) else .error .mustBeZero

/-- An optional operand: `none` when its presence bit is 0 (R79). -/
def optionalOperand (present : BitVec 1) (value : Int) : Option Int := if present = 1 then some value else none

/-- Format Q (R79), for the command `make` from rate, ch1, ch2 and thr; `takesThr` says that `op` is 0x8. -/
def decodeFormatQ (takesThr : Bool) (make : Int → Int → Option Int → Option Int → Instr) (w : Word64) :
    Except Illegal Instr :=
  if bits w 32 2 ≠ 0 then .error .mustBeZero
  else if bits w 35 1 = 0 ∧ bits w 36 8 ≠ 0 then .error .channel2WithoutPresence
  else if bits w 34 1 = 1 ∧ takesThr = false then .error .thresholdNotTaken
  else if bits w 34 1 = 0 ∧ bits w 0 32 ≠ 0 then .error .thresholdWithoutPresence
  else .ok (make (signedBits w 52 8) (signedBits w 44 8) (optionalOperand (bits w 35 1) (signedBits w 36 8))
    (optionalOperand (bits w 34 1) (signedBits w 0 32)))

/-- Format Z (R80), for the command `i`. -/
def decodeFormatZ (i : Instr) (w : Word64) : Except Illegal Instr :=
  if bits w 0 60 = 0 then .ok i else .error .mustBeZero

/-- Format R of WRITE_REGISTER (R81). -/
def decodeFormatRWrite (w : Word64) : Except Illegal Instr :=
  if bits w 16 36 = 0 then .ok (.writeRegister (signedBits w 52 8) (bits w 0 16)) else .error .mustBeZero

/-- Format R of READ_REGISTER, whose `value` field must be 0 (R81). -/
def decodeFormatRRead (w : Word64) : Except Illegal Instr :=
  if bits w 0 52 = 0 then .ok (.readRegister (signedBits w 52 8)) else .error .mustBeZero

/-- The decoder: `op` alone selects the format (R75, R83). -/
def decode (w : Word64) : Except Illegal Instr :=
  match (bits w 60 4).toNat with
  | 1 => decodeFormatE w
  | 2 => decodeFormatV16 .decodeConfig w
  | 3 => decodeFormatV16 .decodeSample w
  | 4 => decodeFormatV32 w
  | 5 => decodeFormatQ false (fun rate ch1 ch2 _ => .blockingRead rate ch1 ch2) w
  | 6 => decodeFormatQ false (fun rate ch1 ch2 _ => .setConv rate ch1 ch2) w
  | 7 => decodeFormatZ .readRev w
  | 8 => decodeFormatQ true (fun rate ch1 ch2 thr => .alertStart rate ch1 ch2 thr) w
  | 9 => decodeFormatZ .alertRead w
  | 10 => decodeFormatQ false (fun rate ch1 ch2 _ => .conversionStart rate ch1 ch2) w
  | 11 => decodeFormatRWrite w
  | 12 => decodeFormatRRead w
  | _ => .error .reservedOpcode

/-- Presence bit of an optional operand (R79). -/
def presenceBit (o : Option Int) : BitVec 1 := if o.isSome then 1 else 0

/-- Format Q as a word (R79). -/
def encodeFormatQ (op : BitVec 4) (rate ch1 : Int) (ch2 thr : Option Int) : Word64 :=
  op ++ BitVec.ofInt 8 rate ++ BitVec.ofInt 8 ch1 ++ BitVec.ofInt 8 (ch2.getD 0) ++ presenceBit ch2 ++
    presenceBit thr ++ (0 : BitVec 2) ++ BitVec.ofInt 32 (thr.getD 0)

/-- The encoder: the word of a well-formed command (R76 to R81). -/
def encode : Instr → Word64
  | .encodeConfig mode rate chan gain cmp =>
    (1 : BitVec 4) ++ BitVec.ofInt 8 rate ++ BitVec.ofInt 8 chan ++ BitVec.ofInt 8 gain ++ modeBit mode ++
      BitVec.ofBool cmp ++ (0 : BitVec 34)
  | .decodeConfig raw => (2 : BitVec 4) ++ (0 : BitVec 44) ++ raw
  | .decodeSample raw => (3 : BitVec 4) ++ (0 : BitVec 44) ++ raw
  | .encodeThreshold value => (4 : BitVec 4) ++ (0 : BitVec 28) ++ BitVec.ofInt 32 value
  | .blockingRead rate ch1 ch2 => encodeFormatQ 5 rate ch1 ch2 none
  | .setConv rate ch1 ch2 => encodeFormatQ 6 rate ch1 ch2 none
  | .readRev => (7 : BitVec 4) ++ (0 : BitVec 60)
  | .alertStart rate ch1 ch2 thr => encodeFormatQ 8 rate ch1 ch2 thr
  | .alertRead => (9 : BitVec 4) ++ (0 : BitVec 60)
  | .conversionStart rate ch1 ch2 => encodeFormatQ 10 rate ch1 ch2 none
  | .writeRegister idx value => (11 : BitVec 4) ++ BitVec.ofInt 8 idx ++ (0 : BitVec 36) ++ value
  | .readRegister idx => (12 : BitVec 4) ++ BitVec.ofInt 8 idx ++ (0 : BitVec 52)

/-- The command word whose low `nbits` bits are `w` and whose other bits are 0; a command has 64 bits and no more. -/
def tableWord (nbits w : Nat) : Word64 := BitVec.ofNat 64 (w % 2 ^ nbits)

/-- What the decoder reads from an opcode-table word. The command word is one 64-bit number, so it has no byte order
(R44, R74). -/
def decodeTableWord (nbits w : Nat) : Option Instr :=
  if nbits ≤ 64 then
    match decode (tableWord nbits w) with
    | .ok i => some i
    | .error _ => none
  else none

end Sys2Proof
end

