-- ==== Sys2Proof/Config.lean ====
section
/-! DEFINITION. What is fixed for a block and what its surroundings choose: the variant (R8, R21), the transport
adapter's interface (R41), the two parameters of CONVERSION_START that the spec leaves OPEN (R8, D15), and the
environment's free answers (R47, R155). -/

namespace Sys2Proof

/-- The variant profile's selector (R21). -/
inductive Variant where
  | v12
  | v16
deriving DecidableEq, Repr, Inhabited

/-- The adapter's error object, passed on unchanged and never looked at (R156, U14). The number only tells two error
objects apart. Mark: DESIGN CHOICE, safe, log 8. -/
structure TransportErr where
  token : Nat
deriving DecidableEq, Repr, Inhabited

/-- The four device registers, index 0 to 3 (R40, R42). -/
inductive DevReg where
  | conversion
  | config
  | lowThreshold
  | highThreshold
deriving DecidableEq, Repr

/-- One call of the transport adapter: `readRegister(i)` or `writeRegister(i, v)` (R41). Always 16 bits (R43). -/
inductive Request where
  | read (reg : DevReg)
  | write (reg : DevReg) (value : Word16)
deriving DecidableEq, Repr

/-- The adapter's two outcomes (R41). A successful read returns `data`; a successful write returns nothing, and
`data` is then ignored. -/
inductive Answer where
  | success (data : Word16)
  | failure (err : TransportErr)
deriving DecidableEq, Repr, Inhabited

/-- What one transport access did: `W<i>=v`, `R<i>->v`, and the two with `FAIL` (95_test_vectors.md conventions). -/
inductive Event where
  | wrote (reg : DevReg) (value : Word16)
  | didRead (reg : DevReg) (value : Word16)
  | writeFailed (reg : DevReg) (value : Word16) (err : TransportErr)
  | readFailed (reg : DevReg) (err : TransportErr)
deriving DecidableEq, Repr

/-- One transport access: the bus address it carried (R41) and what it did. -/
structure Access where
  busAddr : BitVec 7
  event : Event
deriving DecidableEq, Repr

/-- The three `cmp_que` values that leave the comparator enabled (R67). -/
inductive CmpQueue where
  | afterOne
  | afterTwo
  | afterFour
deriving DecidableEq, Repr, Inhabited

/-- A comparator field `[4:0]` that meets the constraint `CMP_EVERY[1:0] != 0b11` of R8 by its form: the three
upper bits are any, the queue is one of the three enabled ones. -/
structure CmpEvery where
  cmpMode : Bool
  cmpPol : Bool
  cmpLat : Bool
  cmpQue : CmpQueue
deriving DecidableEq, Repr, Inhabited

/-- `CMP_EVERY`, OPEN in the spec (R8, D15): a parameter without a value. Log 7, safe. -/
opaque Config.cmpEvery : CmpEvery

/-- `CONVSTART_HI_RAW`, OPEN in the spec (R8, D15): a parameter without a value; it may differ between the variants,
as the instantiation I-DOC needs. Log 7, safe. -/
opaque Config.convstartHiRaw : Variant → Word16

/-- The environment's answer to the next access once `State.answers` is empty: a free value that may depend on
everything the environment has seen (the accesses so far) and on the request with its bus address (R47, R155).
Log 1, safe. -/
opaque Config.adapterAnswer : List Access → BitVec 7 → Request → Answer

end Sys2Proof
end

