-- ==== Sys2Proof/Machine/State.lean ====
section
/-! DEFINITION. The state of the block (10_state.md), the response record (R84), the ways a step can stop, and the
state after reset (R33, R180). -/

namespace Sys2Proof.Machine

/-- The per-handle phase (R26). -/
inductive Phase where
  | idle
  | singleShotArmed
  | continuous
deriving DecidableEq, Repr

/-- The causes of a `ValidationError` (R151). -/
inductive Cause where
  | rateRange
  | channelRange
  | gainRange
  | thresholdRange
  | registerIndexRange
deriving DecidableEq, Repr

/-- The response to one command: the word `rsp[31:0]` and, only for a TransportError, the adapter's error object
(R84). -/
structure Response where
  rsp : Word32
  terr : Option TransportErr
deriving DecidableEq, Repr

/-- The handle (R20) and the block's four ports. -/
structure State where
  /-- `h.variant` (R21). -/
  variant : Variant
  /-- `h.bus_addr` (R22). -/
  busAddr : BitVec 7
  /-- `h.gain_index` (R23): an int, not checked at reset. -/
  gainIndex : Int
  /-- `h.cfg_cache` (R24). -/
  cfgCache : Word16
  /-- `h.cfg_valid` (R24). -/
  cfgValid : Bool
  /-- `h.thr_hi` (R25). -/
  thrHi : Word16
  /-- `h.thr_hi_valid` (R25). -/
  thrHiValid : Bool
  /-- `h.thr_lo` (R25). -/
  thrLo : Word16
  /-- `h.thr_lo_valid` (R25). -/
  thrLoValid : Bool
  /-- `h.phase` (R26). -/
  phase : Phase
  /-- `h.busy` (R27). Between two steps it is 1 exactly while a BLOCKING_READ still polls (R164; log 2). -/
  busy : Bool
  /-- The command words the host has still to present, the next one first (R74, R86; log 3). -/
  program : List Word64
  /-- The environment's next answers, one per access (R47, R155; log 1). -/
  answers : List Answer
  /-- The transport accesses since reset, oldest first (R15, R49; log 6). -/
  trace : List Access
  /-- What the response port has delivered since reset, oldest first (R84; log 6). -/
  responses : List Response
deriving DecidableEq, Repr

/-- A machine stop. The spec gives the block none: every error is the response of its command and the next command
runs (R150, R163), and the one non-termination is an infinite run (R164). So nobody raises a fault, and the type
has no constructor. Safe: no behaviour is cut off. Log 10. -/
inductive Fault where
deriving DecidableEq, Repr

/-- A refusal of the model. -/
inductive Refusal where
  /-- Raised by an arm of `exec` for a command without a meaning; no arm raises it now. Safe: it would stop where
  the hardware goes on. -/
  | notModelled (mnemonic : String)
deriving DecidableEq, Repr

/-- Creation of a handle from its three parameters (R33, R180): no transport access (R181), nothing validated.
`cfgCache`, `thrHi` and `thrLo` have no value in the spec; 0 stands there. Mark: DESIGN CHOICE, log 5, unsafe. -/
def State.create (variant : Variant) (busAddr : BitVec 7 := 0x48) (gainIndex : Int) : State where
  variant := variant
  busAddr := busAddr
  gainIndex := gainIndex
  cfgCache := 0
  cfgValid := false
  thrHi := 0
  thrHiValid := false
  thrLo := 0
  thrLoValid := false
  phase := .idle
  busy := false
  program := []
  answers := []
  trace := []
  responses := []

/-- The handle the model resets to: the source's own end-to-end scenario, a 16-bit variant with gain index 1 (W8),
at the default address. Mark: DESIGN CHOICE, log 4, unsafe. -/
def State.reset : State := State.create .v16 0x48 1

end Sys2Proof.Machine
end

