-- ==== Sys2Proof/Machine/Operands.lean ====
section
/-! DEFINITION. Operand handling: the number notation of R11, the variant profile (R21), the range checks and their
order (R91, R151, R154), the channel pair (R90), the register index (R140). -/

namespace Sys2Proof.Machine

/-- `toS16` (R11). -/
def toS16 (w : Word16) : Int := w.toInt

/-- `toU16` (R11). -/
def toU16 (i : Int) : Word16 := BitVec.ofInt 16 i

/-- `asr(i, n)`, rounding toward minus infinity (R11): Int division by a positive number rounds down. -/
def asr (i : Int) (n : Nat) : Int := i / 2 ^ n

/-- `shl16(v, n)` (R11). -/
def shl16 (v : Int) (n : Nat) : Word16 := toU16 (v * 2 ^ n)

/-- `bitDepth` (R21). -/
def bitDepth : Variant → Nat
  | .v12 => 12
  | .v16 => 16

/-- `shift = 16 - bitDepth` (R21). -/
def shift (v : Variant) : Nat := 16 - bitDepth v

/-- `maxThreshold = 2^(bitDepth-1) - 1` (R21). -/
def maxThr (v : Variant) : Int := 2 ^ (bitDepth v - 1) - 1

/-- `lo <= i <= hi`. -/
abbrev InRange (lo hi i : Int) : Prop := lo ≤ i ∧ i ≤ hi

/-- `chanOf(ch1, ch2)`: exactly eight pairs, every other raises ChannelRange (R90). -/
def chanOf (ch1 : Int) (ch2 : Option Int) : Except Cause Int :=
  if ch1 = 0 ∧ ch2 = some 1 then .ok 0
  else if ch1 = 0 ∧ ch2 = some 3 then .ok 1
  else if ch1 = 1 ∧ ch2 = some 3 then .ok 2
  else if ch1 = 2 ∧ ch2 = some 3 then .ok 3
  else if ch1 = 0 ∧ ch2 = none then .ok 4
  else if ch1 = 1 ∧ ch2 = none then .ok 5
  else if ch1 = 2 ∧ ch2 = none then .ok 6
  else if ch1 = 3 ∧ ch2 = none then .ok 7
  else .error .channelRange

/-- `prepare(rate, ch1, ch2)`: rate, then channel, then the handle's gain (R110). -/
def prepare (s : State) (rate ch1 : Int) (ch2 : Option Int) : Except Cause Int :=
  if ¬ InRange 0 7 rate then .error .rateRange
  else
    match chanOf ch1 ch2 with
    | .error c => .error c
    | .ok c => if ¬ InRange 0 5 s.gainIndex then .error .gainRange else .ok c

/-- The device register an index operand names; any other index raises RegisterIndexRange (R140, R141, R151). -/
def registerOf (idx : Int) : Except Cause DevReg :=
  if idx = 0 then .ok .conversion
  else if idx = 1 then .ok .config
  else if idx = 2 then .ok .lowThreshold
  else if idx = 3 then .ok .highThreshold
  else .error .registerIndexRange

/-- The index of a device register (R42). -/
def indexOf : DevReg → Int
  | .conversion => 0
  | .config => 1
  | .lowThreshold => 2
  | .highThreshold => 3

end Sys2Proof.Machine
end

