-- ==== Sys2Proof/Machine/Words.lean ====
section
/-! DEFINITION. The words of the device side (30_encoding.md Parts A and B) and of the response port (R84, R85):
the ConfigWord's layout, the codec's four functions, the response records. -/

namespace Sys2Proof.Machine

/-- The layout of R60: os, chan, gain, mode, rate, comparator field, from bit 15 down. The layout is the spec's
decision D1 to D4, of which the source vouches for bit 15 only. Mark: UNVERIFIED, log 14, unsafe. -/
def packConfig (os : BitVec 1) (chan gain : Int) (mode : BitVec 1) (rate : Int) (cmp : BitVec 5) : Word16 :=
  os ++ BitVec.ofInt 3 chan ++ BitVec.ofInt 3 gain ++ mode ++ BitVec.ofInt 3 rate ++ cmp

/-- `CMP_DISABLED` (R68). -/
def cmpDisabled : BitVec 5 := 0b00011

/-- `CMP_ENABLED` (R68). -/
def cmpEnabled : BitVec 5 := 0b00000

/-- The bits `cmp_que` of an enabled queue setting (R67). -/
def cmpQueueBits : CmpQueue → BitVec 2
  | .afterOne => 0b00
  | .afterTwo => 0b01
  | .afterFour => 0b10

/-- The five bits of a `CMP_EVERY` setting (R67, R68). -/
def cmpEveryBits (c : CmpEvery) : BitVec 5 :=
  BitVec.ofBool c.cmpMode ++ BitVec.ofBool c.cmpPol ++ BitVec.ofBool c.cmpLat ++ cmpQueueBits c.cmpQue

/-- A ConfigWord whose start bit follows the mode (R92, D6), for operands that are already validated. -/
def configWord (mode : ConvMode) (rate chan gain : Int) (cmp : Bool) : Word16 :=
  packConfig (modeBit mode) chan gain (modeBit mode) rate (if cmp then cmpEnabled else cmpDisabled)

/-- `CE(c, g, r)` with its comparator field: bit 15 and mode are 0 (R69, R117). -/
def everyWord (cmp : CmpEvery) (rate chan gain : Int) : Word16 := packConfig 0 chan gain 0 rate (cmpEveryBits cmp)

/-- `encodeConfig` (R92): rate, channel, gain, in that order (R91). -/
def encodeConfig (mode : ConvMode) (rate chan gain : Int) (cmp : Bool) : Except Cause Word16 :=
  if ¬ InRange 0 7 rate then .error .rateRange
  else if ¬ InRange 0 7 chan then .error .channelRange
  else if ¬ InRange 0 5 gain then .error .gainRange
  else .ok (configWord mode rate chan gain cmp)

/-- What DECODE_CONFIG returns (R93). -/
structure ConfigFields where
  os : BitVec 1
  chan : BitVec 3
  gain : BitVec 3
  mode : BitVec 1
  rate : BitVec 3
  cmpEn : BitVec 1
deriving DecidableEq, Repr

/-- `decodeConfig` (R93): total, validates nothing. -/
def decodeConfig (raw : Word16) : ConfigFields where
  os := raw.extractLsb' 15 1
  chan := raw.extractLsb' 12 3
  gain := raw.extractLsb' 9 3
  mode := raw.extractLsb' 8 1
  rate := raw.extractLsb' 5 3
  cmpEn := if raw.extractLsb' 0 2 = 0b11 then 0 else 1

/-- The packed form of DECODE_CONFIG's result (R85). -/
def packFields (f : ConfigFields) : Word16 :=
  (0 : BitVec 4) ++ f.os ++ f.chan ++ f.gain ++ f.mode ++ f.rate ++ f.cmpEn

/-- `decodeSample` (R94). -/
def decodeSample (v : Variant) (raw : Word16) : Int := asr (toS16 raw) (shift v)

/-- `encodeThreshold` (R95): checked before the shift. -/
def encodeThreshold (v : Variant) (value : Int) : Except Cause Word16 :=
  if InRange 0 (maxThr v) value then .ok (shl16 value (shift v)) else .error .thresholdRange

/-- The named instantiation I-DOC of CONVERSION_START's high threshold (R117, D15). -/
def convstartHiDoc (v : Variant) : Word16 := shl16 (maxThr v) (shift v)

/-- The named instantiation I-DEV of CONVERSION_START's high threshold (R117, D15). -/
def convstartHiDev : Word16 := 0x8000

/-- The comparator field of both named instantiations, `0b00000` (R117, D15). -/
def cmpEveryNamed : CmpEvery := ⟨false, false, false, .afterOne⟩

/-- The response word from status, cause and value (R84). -/
def responseWord (status cause : BitVec 4) (value : Word16) : Word32 := status ++ cause ++ (0 : BitVec 8) ++ value

/-- The cause codes (R84, R151). -/
def causeCode : Cause → BitVec 4
  | .rateRange => 1
  | .channelRange => 2
  | .gainRange => 3
  | .thresholdRange => 4
  | .registerIndexRange => 5

/-- Status OK with its result (R84). -/
def okResponse (value : Word16) : Response := ⟨responseWord 0 0 value, none⟩

/-- Status ValidationError (R84, R151). -/
def validationResponse (c : Cause) : Response := ⟨responseWord 1 (causeCode c) 0, none⟩

/-- Status TransportError with the adapter's error object unchanged (R84, R156). -/
def transportResponse (e : TransportErr) : Response := ⟨responseWord 2 0 0, some e⟩

/-- Status Refused, cause NotPrimed (R84, R161). -/
def notPrimedResponse : Response := ⟨responseWord 3 1 0, none⟩

/-- Status IllegalCommand (R84, R160). -/
def illegalResponse : Response := ⟨responseWord 4 0 0, none⟩

end Sys2Proof.Machine
end

