-- ==== Sys2Proof/Machine/Flags.lean ====
section
/-! DEFINITION. The one-bit conditions and the phase machine. The block has no arithmetic flags (R30); its conditions
are the completion bit of a polled word and the phase (R122, R123). -/

namespace Sys2Proof.Machine

/-- The completion bit of a word read from device register 1 (R30, R61). -/
def completionBit (w : Word16) : Bool := w.getLsbD 15

/-- The word READ_REV writes: the cached word with its start bit asserted (R114). -/
def withStartBit (w : Word16) : Word16 := w ||| 0x8000

/-- The phase after a controller write of `w` to device register 1, from any phase (R122). -/
def phaseAfterConfigWrite (w : Word16) : Phase := if w.getLsbD 8 then .singleShotArmed else .continuous

/-- The phase after a controller read of device register 0 (R123). -/
def phaseAfterRetrieval : Phase → Phase
  | .singleShotArmed => .idle
  | .idle => .idle
  | .continuous => .continuous

end Sys2Proof.Machine
end

