-- ==== Sys2Proof/Machine/Ops.lean ====
section
/-! DEFINITION. The named operations over the state: the transport port (R41, R47), the state writes that follow a
successful access (R24, R25, R122, R123), the end of a command in its response (R84, R152, R156, R160, R161), and
the sequences that several commands share. -/

namespace Sys2Proof.Machine

/-! ### The end of a command -/

/-- Delivers the response and returns `busy` to 0 (R27, R84, R163). -/
def respond (s : State) (r : Response) : State := { s with busy := false, responses := s.responses ++ [r] }

/-- The command ends in OK with a result (R84). -/
def finish (s : State) (value : Word16) : State := respond s (okResponse value)

/-- `raise ValidationError(c)`: no access, no state change (R12, R152). -/
def raiseValidation (s : State) (c : Cause) : State := respond s (validationResponse c)

/-- The command ends at a failed access (R156); the state is what the successful accesses left (R157). -/
def raiseTransport (s : State) (e : TransportErr) : State := respond s (transportResponse e)

/-- `refuse NotPrimed`: no access, no state change (R161). -/
def refuseNotPrimed (s : State) : State := respond s notPrimedResponse

/-- An illegal command word is answered: no access, no state change (R160). -/
def rejectIllegal (s : State) : State := respond s illegalResponse

/-! ### The transport port -/

/-- The environment's answer to the request: the next one it has lined up, and a free value past its end (R47, R155;
log 1). -/
def nextAnswer (s : State) (q : Request) : Answer :=
  match s.answers with
  | a :: _ => a
  | [] => Config.adapterAnswer s.trace s.busAddr q

/-- One access has happened: its answer is used up and it stands in the trace with the bus address (R41, R49). -/
def logAccess (s : State) (e : Event) : State :=
  { s with answers := s.answers.tail, trace := s.trace ++ [⟨s.busAddr, e⟩] }

/-- Outcome of a `MemRead`. -/
inductive ReadResult where
  | data (value : Word16) (s : State)
  | failed (err : TransportErr) (s : State)

/-- Outcome of a `MemWrite`. -/
inductive WriteResult where
  | done (s : State)
  | failed (err : TransportErr) (s : State)

/-- `MemRead(reg, 2)` (R12, R41). -/
def memRead (s : State) (reg : DevReg) : ReadResult :=
  match nextAnswer s (.read reg) with
  | .success v => .data v (logAccess s (.didRead reg v))
  | .failure e => .failed e (logAccess s (.readFailed reg e))

/-- `MemWrite(reg, 2, v)` (R12, R41). -/
def memWrite (s : State) (reg : DevReg) (v : Word16) : WriteResult :=
  match nextAnswer s (.write reg v) with
  | .success _ => .done (logAccess s (.wrote reg v))
  | .failure e => .failed e (logAccess s (.writeFailed reg v e))

/-- Goes on after a write, or ends the command where it failed (R111). -/
def afterWrite (r : WriteResult) (k : State → State) : State :=
  match r with
  | .done s => k s
  | .failed e s => raiseTransport s e

/-- Goes on after a read, or ends the command where it failed (R111). -/
def afterRead (r : ReadResult) (k : Word16 → State → State) : State :=
  match r with
  | .data v s => k v s
  | .failed e s => raiseTransport s e

/-! ### State writes that record a successful access -/

/-- `h.cfg_cache <- w; h.cfg_valid <- 1` and the phase of R122 (R24). -/
def recordConfig (s : State) (w : Word16) : State :=
  { s with cfgCache := w, cfgValid := true, phase := phaseAfterConfigWrite w }

/-- `h.thr_hi <- v; h.thr_hi_valid <- 1` (R25). -/
def recordHigh (s : State) (v : Word16) : State := { s with thrHi := v, thrHiValid := true }

/-- `h.thr_lo <- v; h.thr_lo_valid <- 1` (R25). -/
def recordLow (s : State) (v : Word16) : State := { s with thrLo := v, thrLoValid := true }

/-- A value has been retrieved (R123). -/
def recordRetrieval (s : State) : State := { s with phase := phaseAfterRetrieval s.phase }

/-! ### Shared sequences -/

/-- `MemWrite(1, 2, w)` of a controller command with its state writes. -/
def writeConfig (s : State) (w : Word16) (k : State → State) : State :=
  afterWrite (memWrite s .config w) fun s1 => k (recordConfig s1 w)

/-- `MemRead(0, 2)` of a controller command with its state write. -/
def readConversion (s : State) (k : Word16 → State → State) : State :=
  afterRead (memRead s .conversion) fun raw s1 => k raw (recordRetrieval s1)

/-- Delivers a sample as `toU16` of the decoded raw word (R72, R94). -/
def deliverSample (s : State) (raw : Word16) : State := finish s (toU16 (decodeSample s.variant raw))

/-- One turn of BLOCKING_READ's completion poll (R112): read register 1; while bit 15 is 0 the command goes on
(`busy` stays 1, R164); once it is 1, read register 0 and deliver the sample. -/
def pollCompletion (s : State) : State :=
  afterRead (memRead s .config) fun v s1 =>
    if completionBit v then readConversion s1 fun raw s2 => deliverSample s2 raw
    else { s1 with busy := true }

/-- The three writes of ALERT_START and CONVERSION_START: register 3, register 2 with 0, register 1 (R115, R117). -/
def startContinuous (s : State) (hi w : Word16) : State :=
  afterWrite (memWrite s .highThreshold hi) fun s1 =>
    afterWrite (memWrite (recordHigh s1 hi) .lowThreshold 0x0000) fun s2 =>
      writeConfig (recordLow s2 0x0000) w fun s3 => finish s3 0

/-! ### The status output -/

/-- The status record (R28). A cache whose valid flag is 0 has no value there. -/
structure Status where
  phase : Phase
  cfgValid : Bool
  cfgCache : Option Word16
  thrHiValid : Bool
  thrHi : Option Word16
  thrLoValid : Bool
  thrLo : Option Word16
  busy : Bool
deriving DecidableEq, Repr

/-- A register seen through its valid flag. -/
def ifValid (valid : Bool) (v : Word16) : Option Word16 := if valid then some v else none

/-- The status output, without side effect (R28). -/
def status (s : State) : Status where
  phase := s.phase
  cfgValid := s.cfgValid
  cfgCache := ifValid s.cfgValid s.cfgCache
  thrHiValid := s.thrHiValid
  thrHi := ifValid s.thrHiValid s.thrHi
  thrLoValid := s.thrLoValid
  thrLo := ifValid s.thrLoValid s.thrLo
  busy := s.busy

end Sys2Proof.Machine
end

