-- ==== Sys2Proof/Machine/Codec.lean ====
section
/-! DEFINITION. The four codec commands (41_codec.md): pure, no transport access, no state written (R96). -/

namespace Sys2Proof.Machine

/-- ENCODE_CONFIG (R92). The gain is the operand, not the handle's. -/
def execEncodeConfig (mode : ConvMode) (rate chan gain : Int) (cmp : Bool) (s : State) :
    Host.Outcome State Fault Refusal :=
  .next <|
    match encodeConfig mode rate chan gain cmp with
    | .error c => raiseValidation s c
    | .ok w => finish s w

/-- DECODE_CONFIG (R93), its result packed as in R85. -/
def execDecodeConfig (raw : Word16) (s : State) : Host.Outcome State Fault Refusal :=
  .next (finish s (packFields (decodeConfig raw)))

/-- DECODE_SAMPLE (R94), with the handle's variant. -/
def execDecodeSample (raw : Word16) (s : State) : Host.Outcome State Fault Refusal :=
  .next (deliverSample s raw)

/-- ENCODE_THRESHOLD (R95), with the handle's variant. -/
def execEncodeThreshold (value : Int) (s : State) : Host.Outcome State Fault Refusal :=
  .next <|
    match encodeThreshold s.variant value with
    | .error c => raiseValidation s c
    | .ok raw => finish s raw

end Sys2Proof.Machine
end

