-- ==== Sys2Proof/Machine/Controller.lean ====
section
/-! DEFINITION. The six controller commands (42_controller.md). -/

namespace Sys2Proof.Machine

/-- BLOCKING_READ up to its first poll, which it always makes (R112); later polls are steps of their own
(`pollCompletion`; log 2). -/
def execBlockingRead (rate ch1 : Int) (ch2 : Option Int) (s : State) : Host.Outcome State Fault Refusal :=
  .next <|
    match prepare s rate ch1 ch2 with
    | .error c => raiseValidation s c
    | .ok c => writeConfig s (configWord .singleShot rate c s.gainIndex false) pollCompletion

/-- SET_CONV (R113): one write, no read, no value. -/
def execSetConv (rate ch1 : Int) (ch2 : Option Int) (s : State) : Host.Outcome State Fault Refusal :=
  .next <|
    match prepare s rate ch1 ch2 with
    | .error c => raiseValidation s c
    | .ok c => writeConfig s (configWord .singleShot rate c s.gainIndex false) fun s1 => finish s1 0

/-- READ_REV (R114): read register 0, then write the cached word with its start bit; without a cached word,
`Refused(NotPrimed)` (R161). -/
def execReadRev (s : State) : Host.Outcome State Fault Refusal :=
  .next <|
    if s.cfgValid then
      readConversion s fun raw s1 => writeConfig s1 (withStartBit s1.cfgCache) fun s2 => deliverSample s2 raw
    else refuseNotPrimed s

/-- ALERT_START (R115): an absent threshold is the variant's maximum. -/
def execAlertStart (rate ch1 : Int) (ch2 thr : Option Int) (s : State) : Host.Outcome State Fault Refusal :=
  .next <|
    match prepare s rate ch1 ch2 with
    | .error c => raiseValidation s c
    | .ok c =>
      match encodeThreshold s.variant (thr.getD (maxThr s.variant)) with
      | .error e => raiseValidation s e
      | .ok hi => startContinuous s hi (configWord .continuous rate c s.gainIndex true)

/-- ALERT_READ (R116): one read of register 0. -/
def execAlertRead (s : State) : Host.Outcome State Fault Refusal :=
  .next (readConversion s fun raw s1 => deliverSample s1 raw)

/-- CONVERSION_START for given values of its two parameters (R117, D15). -/
def conversionStartWith (hi : Word16) (cmp : CmpEvery) (rate ch1 : Int) (ch2 : Option Int) (s : State) : State :=
  match prepare s rate ch1 ch2 with
  | .error c => raiseValidation s c
  | .ok c => startContinuous s hi (everyWord cmp rate c s.gainIndex)

/-- CONVERSION_START (R117), with the two OPEN parameters (log 7). -/
def execConversionStart (rate ch1 : Int) (ch2 : Option Int) (s : State) : Host.Outcome State Fault Refusal :=
  .next (conversionStartWith (Config.convstartHiRaw s.variant) Config.cmpEvery rate ch1 ch2 s)

end Sys2Proof.Machine
end

