-- ==== Sys2Proof/Machine/RawAccess.lean ====
section
/-! DEFINITION. The two raw access commands (43_raw_access.md): a checked index and one access, no state written. -/

namespace Sys2Proof.Machine

/-- WRITE_REGISTER (R140): register 0 is passed through like the others. -/
def execWriteRegister (idx : Int) (value : Word16) (s : State) : Host.Outcome State Fault Refusal :=
  .next <|
    match registerOf idx with
    | .error c => raiseValidation s c
    | .ok reg => afterWrite (memWrite s reg value) fun s1 => finish s1 0

/-- READ_REGISTER (R141): the value as read, undecoded. -/
def execReadRegister (idx : Int) (s : State) : Host.Outcome State Fault Refusal :=
  .next <|
    match registerOf idx with
    | .error c => raiseValidation s c
    | .ok reg => afterRead (memRead s reg) fun v s1 => finish s1 v

end Sys2Proof.Machine
end

