-- ==== Sys2Proof/Machine/Dispatch.lean ====
section
/-! DEFINITION. One arm per command, each a direct call of its meaning (R75). -/

namespace Sys2Proof.Machine

def exec (i : Instr) (s : State) : Host.Outcome State Fault Refusal :=
  match i with
  | .encodeConfig mode rate chan gain cmp => Sys2Proof.Machine.execEncodeConfig mode rate chan gain cmp s
  | .decodeConfig raw => Sys2Proof.Machine.execDecodeConfig raw s
  | .decodeSample raw => Sys2Proof.Machine.execDecodeSample raw s
  | .encodeThreshold value => Sys2Proof.Machine.execEncodeThreshold value s
  | .blockingRead rate ch1 ch2 => Sys2Proof.Machine.execBlockingRead rate ch1 ch2 s
  | .setConv rate ch1 ch2 => Sys2Proof.Machine.execSetConv rate ch1 ch2 s
  | .readRev => Sys2Proof.Machine.execReadRev s
  | .alertStart rate ch1 ch2 thr => Sys2Proof.Machine.execAlertStart rate ch1 ch2 thr s
  | .alertRead => Sys2Proof.Machine.execAlertRead s
  | .conversionStart rate ch1 ch2 => Sys2Proof.Machine.execConversionStart rate ch1 ch2 s
  | .writeRegister idx value => Sys2Proof.Machine.execWriteRegister idx value s
  | .readRegister idx => Sys2Proof.Machine.execReadRegister idx s

end Sys2Proof.Machine
end

