-- ==== Sys2Proof/Machine/Fetch.lean ====
section
/-! DEFINITION. What the block does next: go on polling, wait for a command, answer an illegal word, or execute the
command on its port (R27, R74, R83). -/

namespace Sys2Proof.Machine

/-- What a step has to do. -/
inductive Fetched where
  /-- `busy` is 1: BLOCKING_READ goes on polling and no command is accepted (R27, R164). -/
  | polling
  /-- The host presents nothing: the block waits (R183). -/
  | waiting
  /-- The word on the port is illegal (R83). -/
  | illegal (s : State)
  /-- The command on the port is accepted (R74). -/
  | command (i : Instr) (s : State)

/-- A command is accepted: it leaves the port and `busy` becomes 1 (R27, R74). -/
def accept (s : State) (rest : List Word64) : State := { s with program := rest, busy := true }

/-- What is on the port, if the block is not busy (R74). -/
def fetch (s : State) : Fetched :=
  if s.busy then .polling
  else
    match s.program with
    | [] => .waiting
    | w :: rest =>
      match decode w with
      | .error _ => .illegal (accept s rest)
      | .ok i => .command i (accept s rest)

/-- Makes a block not busy and puts a word on its command port, before whatever the host has still to present
(log 3). No step does this. Mark: DESIGN CHOICE, log 16, unsafe: on a polling block it drops the BLOCKING_READ
unanswered, which U3 leaves open; it stands for no move of a host there. -/
def present (s : State) (w : Word64) : State := { s with busy := false, program := w :: s.program }

end Sys2Proof.Machine
end

