-- ==== Sys2Proof/Machine/Step.lean ====
section
/-! DEFINITION. One step of the block: a whole command, or one further poll of a BLOCKING_READ (log 2). -/

namespace Sys2Proof.Machine

/-- One step. A waiting block stays as it is. -/
def step (s : State) : Host.Outcome State Fault Refusal :=
  match fetch s with
  | .polling => .next (pollCompletion s)
  | .waiting => .next s
  | .illegal s1 => .next (rejectIllegal s1)
  | .command i s1 => exec i s1

/-- The state with the opcode-table word on the command port of a block that is not busy (log 3; log 16 for a state
that is busy). -/
def State.withFetchWord (s : State) (nbits w : Nat) : State := present s (tableWord nbits w)

end Sys2Proof.Machine
end

