-- ==== Sys2Proof/Safety.lean ====
section
/-! DEFINITION. The terms claims are stated in: the closed forms of the controller's words (R69), the table of legal
command words (R83), which operands are invalid (R151), the bookkeeping and its replay from the accesses (R111),
the accesses a command may make (R48), and the block's invariant. -/

namespace Sys2Proof

open Sys2Proof.Machine

/-! ### Closed forms of the words the controller writes (R69) -/

/-- `SS(c, g, r)`. -/
def ssWord (c g r : Int) : Word16 :=
  0x8000 ||| (BitVec.ofInt 16 c <<< 12) ||| (BitVec.ofInt 16 g <<< 9) ||| 0x0100 ||| (BitVec.ofInt 16 r <<< 5) |||
    0b00011

/-- `CA(c, g, r)`. -/
def caWord (c g r : Int) : Word16 :=
  (BitVec.ofInt 16 c <<< 12) ||| (BitVec.ofInt 16 g <<< 9) ||| (BitVec.ofInt 16 r <<< 5)

/-- `CE(c, g, r)` for a comparator field. -/
def ceWord (cmp : CmpEvery) (c g r : Int) : Word16 :=
  (BitVec.ofInt 16 c <<< 12) ||| (BitVec.ofInt 16 g <<< 9) ||| (BitVec.ofInt 16 r <<< 5) |||
    (cmpEveryBits cmp).setWidth 16

/-! ### Legal command words (R83, spec/opcode_table.json) -/

/-- The `mask` and `match` columns of spec/opcode_table.json. -/
def opcodeTable : List (Word64 × Word64) :=
  [(0xF0000003FFFFFFFF, 0x1000000000000000), (0xFFFFFFFFFFFF0000, 0x2000000000000000),
   (0xFFFFFFFFFFFF0000, 0x3000000000000000), (0xFFFFFFFF00000000, 0x4000000000000000),
   (0xF0000007FFFFFFFF, 0x5000000000000000), (0xF0000007FFFFFFFF, 0x6000000000000000),
   (0xFFFFFFFFFFFFFFFF, 0x7000000000000000), (0xF000000300000000, 0x8000000000000000),
   (0xFFFFFFFFFFFFFFFF, 0x9000000000000000), (0xF0000007FFFFFFFF, 0xA000000000000000),
   (0xF00FFFFFFFFF0000, 0xB000000000000000), (0xF00FFFFFFFFFFFFF, 0xC000000000000000)]

/-- The word matches a row of the opcode table. -/
def matchesTable (w : Word64) : Bool := opcodeTable.any fun row => w &&& row.1 == row.2

/-- The opcodes of format Q (R79). -/
def isFormatQ (w : Word64) : Bool := [5, 6, 8, 10].contains (w.extractLsb' 60 4).toNat

/-- `ch2` is 0 when `ch2p` is 0 (R83; the table's column `constraint`). -/
def channel2Respected (w : Word64) : Bool := w.getLsbD 35 || w.extractLsb' 36 8 == 0

/-- `thr` is 0 when `thrp` is 0 (R83; the table's column `constraint`). -/
def thresholdRespected (w : Word64) : Bool := w.getLsbD 34 || w.extractLsb' 0 32 == 0

/-- The word is a legal command by R83. -/
def LegalWord (w : Word64) : Bool :=
  matchesTable w && (!isFormatQ w || (channel2Respected w && thresholdRespected w))

/-! ### Invalid operands (R151) -/

/-- The eight channel pairs with their channel index (R90). -/
def channelPairs : List ((Int × Option Int) × Int) :=
  [((0, some 1), 0), ((0, some 3), 1), ((1, some 3), 2), ((2, some 3), 3),
   ((0, none), 4), ((1, none), 5), ((2, none), 6), ((3, none), 7)]

/-- A rate index is out of range. -/
abbrev RateOut (rate : Int) : Prop := rate < 0 ∨ rate > 7

/-- A channel pair is not one of the eight. -/
abbrev PairOut (ch1 : Int) (ch2 : Option Int) : Prop := (ch1, ch2) ∉ channelPairs.map Prod.fst

/-- A gain index is out of range. -/
abbrev GainOut (gain : Int) : Prop := gain < 0 ∨ gain > 5

/-- A threshold is out of the variant's range: 0 to 2047 or 0 to 32767. -/
abbrev ThresholdOut (v : Variant) (t : Int) : Prop :=
  t < 0 ∨ t > (match v with | .v12 => 2047 | .v16 => 32767)

/-- A register index is out of range. -/
abbrev IndexOut (idx : Int) : Prop := idx < 0 ∨ idx > 3

/-- The first cause in a list of conditions that holds. -/
def firstCause : List (Bool × Cause) → Option Cause
  | [] => none
  | (failed, c) :: rest => if failed then some c else firstCause rest

/-- The conditions of R151 for the common prologue, in the priority of R154. -/
def commonCauses (s : State) (rate ch1 : Int) (ch2 : Option Int) : List (Bool × Cause) :=
  [(decide (RateOut rate), .rateRange), (decide (PairOut ch1 ch2), .channelRange),
   (decide (GainOut s.gainIndex), .gainRange)]

/-- The conditions of R151 that a command checks, in the priority of R154. -/
def causesOf (s : State) : Instr → List (Bool × Cause)
  | .encodeConfig _ rate chan gain _ =>
    [(decide (RateOut rate), .rateRange), (decide (chan < 0 ∨ chan > 7), .channelRange),
     (decide (GainOut gain), .gainRange)]
  | .decodeConfig _ => []
  | .decodeSample _ => []
  | .encodeThreshold value => [(decide (ThresholdOut s.variant value), .thresholdRange)]
  | .blockingRead rate ch1 ch2 => commonCauses s rate ch1 ch2
  | .setConv rate ch1 ch2 => commonCauses s rate ch1 ch2
  | .readRev => []
  | .alertStart rate ch1 ch2 thr =>
    commonCauses s rate ch1 ch2 ++
      [(match thr with | some t => decide (ThresholdOut s.variant t) | none => false, .thresholdRange)]
  | .alertRead => []
  | .conversionStart rate ch1 ch2 => commonCauses s rate ch1 ch2
  | .writeRegister idx _ => [(decide (IndexOut idx), .registerIndexRange)]
  | .readRegister idx => [(decide (IndexOut idx), .registerIndexRange)]

/-- The command's operands (with the handle's gain and variant) fail a check of R151. -/
def OperandsInvalid (s : State) (i : Instr) : Prop := ∃ p ∈ causesOf s i, p.1 = true

/-! ### Kinds of commands -/

/-- The four codec commands (41_codec.md). -/
def isCodec : Instr → Bool
  | .encodeConfig .. => true
  | .decodeConfig .. => true
  | .decodeSample .. => true
  | .encodeThreshold .. => true
  | .blockingRead .. => false
  | .setConv .. => false
  | .readRev => false
  | .alertStart .. => false
  | .alertRead => false
  | .conversionStart .. => false
  | .writeRegister .. => false
  | .readRegister .. => false

/-- The two raw access commands (43_raw_access.md). -/
def isRaw : Instr → Bool
  | .encodeConfig .. => false
  | .decodeConfig .. => false
  | .decodeSample .. => false
  | .encodeThreshold .. => false
  | .blockingRead .. => false
  | .setConv .. => false
  | .readRev => false
  | .alertStart .. => false
  | .alertRead => false
  | .conversionStart .. => false
  | .writeRegister .. => true
  | .readRegister .. => true

/-! ### Accesses -/

/-- The accesses of a handle that did the events (R41: each carries the bus address). -/
def accessesOf (s : State) (evs : List Event) : List Access := evs.map fun e => ⟨s.busAddr, e⟩

/-- The request an event answered. -/
def requestOf : Event → Request
  | .wrote reg v => .write reg v
  | .didRead reg _ => .read reg
  | .writeFailed reg v _ => .write reg v
  | .readFailed reg _ => .read reg

/-- The adapter's error object, when the event is a failed access. -/
def failureOf : Event → Option TransportErr
  | .wrote _ _ => none
  | .didRead _ _ => none
  | .writeFailed _ _ err => some err
  | .readFailed _ err => some err

/-- One access of the matrix of R48: a read or a write of a register. -/
inductive AccessKind where
  | r (reg : DevReg)
  | w (reg : DevReg)
deriving DecidableEq, Repr

/-- The kind of a request. -/
def kindOf : Request → AccessKind
  | .read reg => .r reg
  | .write reg _ => .w reg

/-- The accesses a command makes, in order (R48), when none fails and nothing is refused; BLOCKING_READ with one
poll, because the model makes its further polls in steps of their own (log 2). -/
def accessMatrix : Instr → List AccessKind
  | .encodeConfig .. => []
  | .decodeConfig .. => []
  | .decodeSample .. => []
  | .encodeThreshold .. => []
  | .blockingRead .. => [.w .config, .r .config, .r .conversion]
  | .setConv .. => [.w .config]
  | .readRev => [.r .conversion, .w .config]
  | .alertStart .. => [.w .highThreshold, .w .lowThreshold, .w .config]
  | .alertRead => [.r .conversion]
  | .conversionStart .. => [.w .highThreshold, .w .lowThreshold, .w .config]
  | .writeRegister idx _ => if idx = 0 then [.w .conversion] else if idx = 1 then [.w .config]
      else if idx = 2 then [.w .lowThreshold] else if idx = 3 then [.w .highThreshold] else []
  | .readRegister idx => if idx = 0 then [.r .conversion] else if idx = 1 then [.r .config]
      else if idx = 2 then [.r .lowThreshold] else if idx = 3 then [.r .highThreshold] else []

/-- The environment does the events when the state's next accesses are those of the events: each request is answered
as its event says, in order (R47, R155). It covers answers lined up in `State.answers` and free ones alike. -/
def EnvironmentDoes : State → List Event → Prop
  | _, [] => True
  | s, .wrote reg v :: es =>
    (∃ d, nextAnswer s (.write reg v) = .success d) ∧ EnvironmentDoes (logAccess s (.wrote reg v)) es
  | s, .didRead reg v :: es =>
    nextAnswer s (.read reg) = .success v ∧ EnvironmentDoes (logAccess s (.didRead reg v)) es
  | s, .writeFailed reg v e :: es =>
    nextAnswer s (.write reg v) = .failure e ∧ EnvironmentDoes (logAccess s (.writeFailed reg v e)) es
  | s, .readFailed reg e :: es =>
    nextAnswer s (.read reg) = .failure e ∧ EnvironmentDoes (logAccess s (.readFailed reg e)) es

/-- The state with the events done and nothing else changed: their answers used up, their accesses in the trace. -/
def afterAccesses (s : State) (evs : List Event) : State :=
  { s with answers := s.answers.drop evs.length, trace := s.trace ++ accessesOf s evs }

/-! ### Results -/

/-- The sample of a raw conversion word (R21, R94): floor division by 16 on the 12-bit variant. -/
def sampleOf : Variant → Word16 → Int
  | .v12, raw => raw.toInt / 16
  | .v16, raw => raw.toInt

/-- The raw form of a threshold in sample units (R71, R95). -/
def thresholdWord : Variant → Int → Word16
  | .v12, t => BitVec.ofInt 16 (t * 16)
  | .v16, t => BitVec.ofInt 16 t

/-- The variant's largest threshold (R21). -/
def largestThreshold : Variant → Int
  | .v12 => 2047
  | .v16 => 32767

/-- The response of a command that ends in OK with a value: the value with zeros above it (R84). -/
def valueResponse (v : Word16) : Response := ⟨v.setWidth 32, none⟩

/-- The response that delivers a sample as 16 bits two's complement (R72). -/
def sampleResponse (v : Variant) (raw : Word16) : Response := valueResponse (BitVec.ofInt 16 (sampleOf v raw))

/-- The index of a device register (R42). -/
def registerNumber : DevReg → Int
  | .conversion => 0
  | .config => 1
  | .lowThreshold => 2
  | .highThreshold => 3

/-- The cause codes of R151. -/
def causeNumber : Cause → Nat
  | .rateRange => 1
  | .channelRange => 2
  | .gainRange => 3
  | .thresholdRange => 4
  | .registerIndexRange => 5

/-- The response of a ValidationError (R84): status 1 in [31:28], the cause in [27:24], zeros below. -/
def causeResponse (c : Cause) : Response := ⟨BitVec.ofNat 32 (0x10000000 + 0x1000000 * causeNumber c), none⟩

/-! ### Bookkeeping and its replay -/

/-- The mutable registers of the handle (R24, R25, R26). -/
structure Book where
  cfgCache : Word16
  cfgValid : Bool
  thrHi : Word16
  thrHiValid : Bool
  thrLo : Word16
  thrLoValid : Bool
  phase : Phase
deriving DecidableEq, Repr

/-- The bookkeeping of a state. -/
def bookOf (s : State) : Book where
  cfgCache := s.cfgCache
  cfgValid := s.cfgValid
  thrHi := s.thrHi
  thrHiValid := s.thrHiValid
  thrLo := s.thrLo
  thrLoValid := s.thrLoValid
  phase := s.phase

/-- What one access of a controller command does to the bookkeeping: only a successful write of register 1, 2 or 3
and a successful read of register 0 change it (R24, R25, R122, R123, R124). -/
def recordEvent (b : Book) : Event → Book
  | .wrote .config w =>
    { b with cfgCache := w, cfgValid := true, phase := if w.getLsbD 8 then .singleShotArmed else .continuous }
  | .wrote .lowThreshold v => { b with thrLo := v, thrLoValid := true }
  | .wrote .highThreshold v => { b with thrHi := v, thrHiValid := true }
  | .wrote .conversion _ => b
  | .didRead .conversion _ => { b with phase := if b.phase = .singleShotArmed then .idle else b.phase }
  | .didRead .config _ => b
  | .didRead .lowThreshold _ => b
  | .didRead .highThreshold _ => b
  | .writeFailed _ _ _ => b
  | .readFailed _ _ => b

/-- The bookkeeping that a list of accesses leaves. -/
def replay (b : Book) (evs : List Event) : Book := evs.foldl recordEvent b

/-! ### What the outside sees -/

/-- Everything of a state but the registers whose valid flag is 0: the constants, the status output (R28) and the
ports. -/
structure Visible where
  variant : Variant
  busAddr : BitVec 7
  gainIndex : Int
  status : Status
  program : List Word64
  answers : List Answer
  trace : List Access
  responses : List Response
deriving DecidableEq, Repr

/-- What the outside sees of a state. -/
def visible (s : State) : Visible where
  variant := s.variant
  busAddr := s.busAddr
  gainIndex := s.gainIndex
  status := status s
  program := s.program
  answers := s.answers
  trace := s.trace
  responses := s.responses

/-! ### The invariant -/

/-- A word a controller command can have cached for gain index `g` (R69): a single-shot word, or a continuous word
whose start bit READ_REV may have set. -/
def ControllerWord (g : Int) (w : Word16) : Prop :=
  ∃ c r : Int, InRange 0 7 c ∧ InRange 0 7 r ∧ InRange 0 5 g ∧
    (w = ssWord c g r ∨ w = caWord c g r ∨ w = caWord c g r ||| 0x8000 ∨
      w = ceWord Config.cmpEvery c g r ∨ w = ceWord Config.cmpEvery c g r ||| 0x8000)

/-- A value a controller command can have written to the high threshold (R71, R117). -/
def ControllerHigh (v : Variant) (hi : Word16) : Prop :=
  hi = Config.convstartHiRaw v ∨ ∃ t : Int, InRange 0 (largestThreshold v) t ∧ hi = thresholdWord v t

/-- A response record as R84 lays it out: a status up to 4, the cause of that status, zeros, a value only when the
status is OK, the adapter's error object only when it is TransportError. -/
def ResponseWellFormed (r : Response) : Prop :=
  r.rsp.extractLsb' 16 8 = 0 ∧
    ((r.rsp.extractLsb' 28 4 = 0 ∧ r.rsp.extractLsb' 24 4 = 0 ∧ r.terr = none) ∨
     (r.rsp.extractLsb' 28 4 = 1 ∧ 1 ≤ (r.rsp.extractLsb' 24 4).toNat ∧ (r.rsp.extractLsb' 24 4).toNat ≤ 5 ∧
        r.rsp.extractLsb' 0 16 = 0 ∧ r.terr = none) ∨
     (r.rsp.extractLsb' 28 4 = 2 ∧ r.rsp.extractLsb' 24 4 = 0 ∧ r.rsp.extractLsb' 0 16 = 0 ∧ r.terr.isSome) ∨
     (r.rsp.extractLsb' 28 4 = 3 ∧ r.rsp.extractLsb' 24 4 = 1 ∧ r.rsp.extractLsb' 0 16 = 0 ∧ r.terr = none) ∨
     (r.rsp.extractLsb' 28 4 = 4 ∧ r.rsp.extractLsb' 24 4 = 0 ∧ r.rsp.extractLsb' 0 16 = 0 ∧ r.terr = none))

/-- What holds of every state a block can reach. -/
structure BlockInv (s : State) : Prop where
  /-- A valid cached word is one the controller builds (R24, R69). -/
  cache : s.cfgValid = true → ControllerWord s.gainIndex s.cfgCache
  /-- The phase follows the mode bit of the cached word: armed only for a single-shot word, continuous exactly for a
  continuous one (R122 to R124). -/
  armed : s.phase = .singleShotArmed → s.cfgValid = true ∧ s.cfgCache.getLsbD 8 = true
  continuous : s.phase = .continuous → s.cfgValid = true ∧ s.cfgCache.getLsbD 8 = false
  idle : s.phase = .idle → s.cfgValid = true → s.cfgCache.getLsbD 8 = true
  /-- A continuous word was written after both thresholds (R115, R117). -/
  thresholdsFirst : s.cfgValid = true → s.cfgCache.getLsbD 8 = false → s.thrLoValid = true
  /-- The low threshold is only ever written as 0, and after the high one (R71, R115, R117). -/
  low : s.thrLoValid = true → s.thrLo = 0 ∧ s.thrHiValid = true
  /-- The high threshold is an encoded threshold or CONVERSION_START's parameter (R71, R117). -/
  high : s.thrHiValid = true → ControllerHigh s.variant s.thrHi
  /-- A block that is busy between two steps is polling for the single-shot word it wrote (R112, R164). This holds
  because every command but a polling BLOCKING_READ is one step, the model's choice (log 2). -/
  polling : s.busy = true → s.phase = .singleShotArmed
  /-- Every access carried this handle's bus address (R41). -/
  addressed : ∀ a ∈ s.trace, a.busAddr = s.busAddr
  /-- Every delivered response is laid out as R84 says. -/
  answered : ∀ r ∈ s.responses, ResponseWellFormed r

end Sys2Proof
end

