-- ==== Sys2Proof/Certificates/Slice0/Obligations.lean ====
section
/-! DEFINITION. The statements for the provers. Each docstring names the rule it formalises; "decision D<n>" means the
spec's own choice in 92_eei_decisions.md, "log <n>" the model's assumption log. -/

open Sys2Proof Sys2Proof.Machine

/-! ### Command words (30_encoding.md Part C) -/

/-- Decode of encode is the command, for every command that has a word (R74 to R82; decision D9). -/
def Obligations.DecodeOfEncodedCommand : Prop :=
  ∀ i : Instr, i.wf = true → decode (encode i) = .ok i

/-- Every accepted word is the word of the command it decodes to: no bit is ignored (R83; decision D9). -/
def Obligations.EncodeOfDecodedWord : Prop :=
  ∀ (w : Word64) (i : Instr), decode w = .ok i → i.wf = true ∧ encode i = w

/-- The decoder accepts exactly the legal words of R83: a row of the opcode table, with the presence constraints
(decisions D9, D27). -/
def Obligations.DecoderAcceptsExactlyLegalWords : Prop :=
  ∀ w : Word64, (∃ i, decode w = .ok i) ↔ LegalWord w = true

/-- Words written out in 95_test_vectors.md decode to their commands, one per row of the opcode table. -/
def Obligations.ExampleWordsDecode : Prop :=
  decode 0x1040401800000000 = .ok (.encodeConfig .singleShot 4 4 1 false) ∧
  decode 0x200000000000C383 = .ok (.decodeConfig 0xC383) ∧
  decode 0x3000000000000FF0 = .ok (.decodeSample 0x0FF0) ∧
  decode 0x40000000FFFFFFFF = .ok (.encodeThreshold (-1)) ∧
  decode 0x5040001800000000 = .ok (.blockingRead 4 0 (some 1)) ∧
  decode 0x6070203800000000 = .ok (.setConv 7 2 (some 3)) ∧
  decode 0x7000000000000000 = .ok .readRev ∧
  decode 0x8090100CFFFFFFFB = .ok (.alertStart 9 1 (some 0) (some (-5))) ∧
  decode 0x9000000000000000 = .ok .alertRead ∧
  decode 0xA040000000000000 = .ok (.conversionStart 4 0 none) ∧
  decode 0xBFF0000000000000 = .ok (.writeRegister (-1) 0) ∧
  decode 0xC010000000000000 = .ok (.readRegister 1)

/-- An illegal word is answered with IllegalCommand, without access and without state change (R83, R160; decisions
D10, D27). -/
def Obligations.IllegalWordChangesNothing : Prop :=
  ∀ (s : State) (w : Word64) (rest : List Word64), s.busy = false → s.program = w :: rest → LegalWord w = false →
    step s = .next { s with program := rest, responses := s.responses ++ [⟨0x40000000, none⟩] }

/-! ### Steps -/

/-- A step runs the decoded command: it leaves the port, `busy` becomes 1, and `exec` gives the rest (R27, R74). -/
def Obligations.StepRunsDecodedCommand : Prop :=
  ∀ (s : State) (w : Word64) (rest : List Word64) (i : Instr), s.busy = false → s.program = w :: rest →
    decode w = .ok i → step s = exec i { s with program := rest, busy := true }

/-- The steps that run no command: a block with nothing on its port waits, and a busy block polls once more and takes
no command from the port (R27, R164; the granularity is the model's choice, log 2 and log 3). -/
def Obligations.StepWithoutCommand : Prop :=
  (∀ s : State, s.busy = false → s.program = [] → step s = .next s) ∧
  (∀ s : State, s.busy = true → ∃ t, step s = .next t ∧ t.program = s.program ∧
    ∃ e evs, t.trace = s.trace ++ accessesOf s (e :: evs) ∧ requestOf e = .read .config)

/-- No step stops the block: errors are responses, not traps (R150, R163; that every outcome is a next state is the
model's choice, log 10). -/
def Obligations.EveryStepAnswersNext : Prop :=
  ∀ s : State, ∃ t, step s = .next t

/-! ### Reset and the invariant -/

/-- What creating a handle leaves (R33, R180, R181; decision D12): the parameters, no valid cache, phase Idle, not
busy, no access, nothing validated; 0x48 when no address is given. -/
def Obligations.HandleCreationValues : Prop :=
  (∀ (v : Variant) (a : BitVec 7) (g : Int),
    (State.create v a g).variant = v ∧ (State.create v a g).busAddr = a ∧ (State.create v a g).gainIndex = g ∧
    status (State.create v a g) = ⟨.idle, false, none, false, none, false, none, false⟩ ∧
    (State.create v a g).trace = [] ∧ (State.create v a g).responses = []) ∧
  (∀ (v : Variant) (g : Int), (State.create v (gainIndex := g)).busAddr = 0x48)

/-- The invariant holds of every created handle and of the model's reset state (R33; log 4). -/
def Obligations.InvariantAtCreation : Prop :=
  BlockInv State.reset ∧ ∀ (v : Variant) (a : BitVec 7) (g : Int), BlockInv (State.create v a g)

/-- Every step keeps the invariant: the cached word is one the controller builds, the phase follows its mode bit, the
low threshold is 0, every access is addressed, every response is laid out as R84 says (R24, R25, R41, R69, R71,
R84, R122 to R124; decisions D1 to D4, D6, D10, D11, D14, D15, D17, D24). That a busy block is armed holds only because
every other command is one step (by R27 busy is 1 during each): the model's choice, log 2. -/
def Obligations.StepKeepsInvariant : Prop :=
  ∀ s t : State, BlockInv s → step s = .next t → BlockInv t

/-- The three parameters of a handle never change (R20 to R23; decision D23 for the gain). -/
def Obligations.HandleConstantsNeverChange : Prop :=
  ∀ s t : State, step s = .next t →
    t.variant = s.variant ∧ t.busAddr = s.busAddr ∧ t.gainIndex = s.gainIndex

/-! ### Accesses and responses -/

/-- A step only adds to the trace, and every access it adds carries the handle's bus address (R41). -/
def Obligations.EveryAccessIsAddressed : Prop :=
  ∀ s t : State, step s = .next t → ∃ evs, t.trace = s.trace ++ accessesOf s evs

/-- A command reaches the registers of R48 in that order, stops at its first failed access, and makes all its accesses
when it ends in OK (the order of the two threshold writes is decision D14; that BLOCKING_READ makes one poll here, and
R48's further ones in steps of their own, is the model's choice, log 2). -/
def Obligations.CommandFollowsAccessMatrix : Prop :=
  ∀ (i : Instr) (s t : State), exec i s = .next t → ∃ evs, t.trace = s.trace ++ accessesOf s evs ∧
    (evs.map fun e => kindOf (requestOf e)) <+: accessMatrix i ∧
    (∀ e ∈ evs.dropLast, failureOf e = none) ∧
    (∀ r : Response, t.responses = s.responses ++ [r] → r.rsp.extractLsb' 28 4 = 0 →
      (evs.map fun e => kindOf (requestOf e)) = accessMatrix i)

/-- A further poll first reads register 1; it makes a second access, a read of register 0, exactly when that read gave
bit 15 set, and stays busy exactly when it gave bit 15 clear (R112, R164; that a further poll is a step is the model's
choice, log 2). -/
def Obligations.PollFollowsAccessMatrix : Prop :=
  ∀ s t : State, s.busy = true → step s = .next t → ∃ e es, t.trace = s.trace ++ accessesOf s (e :: es) ∧
    requestOf e = .read .config ∧
    ((∃ v : Word16, e = .didRead .config v ∧ v.getLsbD 15 = true) →
      ∃ e', es = [e'] ∧ requestOf e' = .read .conversion) ∧
    ((¬ ∃ v : Word16, e = .didRead .config v ∧ v.getLsbD 15 = true) → es = []) ∧
    (t.busy = true ↔ ∃ v : Word16, e = .didRead .config v ∧ v.getLsbD 15 = false)

/-- A command is answered by exactly one well-formed response and leaves the block not busy, but for a BLOCKING_READ
whose poll has just read bit 15 clear (R84, R126, R163, R164; decision D10). -/
def Obligations.OneResponsePerCommand : Prop :=
  ∀ (i : Instr) (s t : State), exec i s = .next t →
    (t.busy = false ∧ ∃ r, t.responses = s.responses ++ [r] ∧ ResponseWellFormed r) ∨
    (t.busy = true ∧ t.responses = s.responses ∧ (∃ rate ch1 ch2, i = .blockingRead rate ch1 ch2) ∧
      ∃ evs v, t.trace = s.trace ++ accessesOf s (evs ++ [.didRead .config v]) ∧ v.getLsbD 15 = false)

/-- On a failed access the command (or the poll of a BLOCKING_READ) ends at once with TransportError: no access
follows, and the adapter's error object is delivered unchanged, with no cause code (R156). -/
def Obligations.TransportFailureEndsCommand : Prop :=
  (∀ (i : Instr) (s t : State) (evs : List Event) (e : Event) (err : TransportErr), exec i s = .next t →
    t.trace = s.trace ++ accessesOf s evs → e ∈ evs → failureOf e = some err →
    evs.getLast? = some e ∧ t.busy = false ∧ t.responses = s.responses ++ [transportResponse err]) ∧
  (∀ (s t : State) (evs : List Event) (e : Event) (err : TransportErr), s.busy = true → step s = .next t →
    t.trace = s.trace ++ accessesOf s evs → e ∈ evs → failureOf e = some err →
    evs.getLast? = some e ∧ t.busy = false ∧ t.responses = s.responses ++ [transportResponse err])

/-- The caches and the phase after a codec or controller command, or after a further poll, are exactly what its
accesses leave: each successful access is recorded, a failed one is not (R24, R25, R111, R122 to R124, R157;
decisions D11, D16, D17). -/
def Obligations.BookkeepingIsReplayOfAccesses : Prop :=
  (∀ (i : Instr) (s t : State), isRaw i = false → exec i s = .next t →
    ∃ evs, t.trace = s.trace ++ accessesOf s evs ∧ bookOf t = replay (bookOf s) evs) ∧
  (∀ s t : State, s.busy = true → step s = .next t →
    ∃ evs, t.trace = s.trace ++ accessesOf s evs ∧ bookOf t = replay (bookOf s) evs)

/-- The frame of WRITE_REGISTER and READ_REGISTER, whatever the index and the outcome: one access at most, no register
of the handle changes (R140, R141; decision D24). -/
def Obligations.RawAccessKeepsBookkeeping : Prop :=
  ∀ (i : Instr) (s t : State), isRaw i = true → exec i s = .next t → ∃ evs r, evs.length ≤ 1 ∧
    t = { afterAccesses s evs with busy := false, responses := s.responses ++ [r] }

/-- Which commands write which registers of the handle (the table of R20): the caches, the thresholds, the phase. -/
def Obligations.OnlyListedCommandsWriteState : Prop :=
  ∀ (i : Instr) (s t : State), exec i s = .next t →
    ((isCodec i = true ∨ isRaw i = true ∨ i = .alertRead) → t.cfgCache = s.cfgCache ∧ t.cfgValid = s.cfgValid) ∧
    ((∀ rate ch1 ch2 thr, i ≠ .alertStart rate ch1 ch2 thr) → (∀ rate ch1 ch2, i ≠ .conversionStart rate ch1 ch2) →
      t.thrHi = s.thrHi ∧ t.thrHiValid = s.thrHiValid ∧ t.thrLo = s.thrLo ∧ t.thrLoValid = s.thrLoValid) ∧
    ((isCodec i = true ∨ isRaw i = true) → t.phase = s.phase) ∧ t.program = s.program

/-- What a controller command sends to the threshold registers, in writes that succeed and in one that fails (after
which the device may hold it, R158): register 2 only 0; register 3 an encoded threshold in range, at most 0x7FFF or
0x7FF0, or CONVSTART_HI_RAW (R71; decision D15 for the parameter). -/
def Obligations.ThresholdWritesOfController : Prop :=
  ∀ (i : Instr) (s t : State) (evs : List Event), isRaw i = false → exec i s = .next t →
    t.trace = s.trace ++ accessesOf s evs → ∀ e ∈ evs,
    (∀ v, requestOf e = .write .lowThreshold v → v = 0x0000) ∧
    (∀ v, requestOf e = .write .highThreshold v →
      (∃ k : Int, 0 ≤ k ∧ k ≤ maxThr s.variant ∧ v = BitVec.ofInt 16 (k * 2 ^ shift s.variant) ∧
        v.toNat ≤ (match s.variant with | .v12 => 0x7FF0 | .v16 => 0x7FFF)) ∨
      ((∃ rate ch1 ch2, i = .conversionStart rate ch1 ch2) ∧ v = Config.convstartHiRaw s.variant))

/-- What a controller command sends to register 1, in a write that succeeds or fails, and that it never writes
register 0 (R42, R69(b) and (d), R158; decisions D1 to D4, D6, D11, D15). -/
def Obligations.ConfigWritesOfController : Prop :=
  ∀ (i : Instr) (s t : State) (evs : List Event), isRaw i = false → exec i s = .next t →
    t.trace = s.trace ++ accessesOf s evs → ∀ e ∈ evs,
    (∀ v, requestOf e ≠ .write .conversion v) ∧
    (∀ w, requestOf e = .write .config w →
      (i = .readRev ∧ w = s.cfgCache ||| 0x8000) ∨
      ∃ c r : Int, InRange 0 7 c ∧ InRange 0 7 r ∧ InRange 0 5 s.gainIndex ∧
        (w = ssWord c s.gainIndex r ∨ w = caWord c s.gainIndex r ∨ w = ceWord Config.cmpEvery c s.gainIndex r))

/-! ### Errors -/

/-- A command that no word can carry has invalid operands, and no word decodes to it (R82; decision D19). -/
def Obligations.CommandWithoutWordIsInvalid : Prop :=
  ∀ (i : Instr) (s : State), i.wf = false → OperandsInvalid s i ∧ ∀ w : Word64, decode w ≠ .ok i

/-- A command whose operands fail a check of R151 (with decisions D5, D23, D24 for the channel pair, the handle's gain
and the register index) ends in a ValidationError: nothing is clamped, no access is made, nothing of the state
changes, and the next command can follow (R151, R152). -/
def Obligations.InvalidOperandsEndWithoutEffect : Prop :=
  ∀ (i : Instr) (s : State), OperandsInvalid s i →
    ∃ c, exec i s = .next { s with busy := false, responses := s.responses ++ [validationResponse c] }

/-- The cause reported is the first failing check in the order rate, channel, gain, threshold; a command whose checks
all pass does not end in ValidationError (R151, R154; decisions D5, D10, D20, D24). -/
def Obligations.FirstFailingCauseIsReported : Prop :=
  ∀ (i : Instr) (s : State),
    (∀ c, firstCause (causesOf s i) = some c →
      exec i s = .next { s with busy := false, responses := s.responses ++ [causeResponse c] }) ∧
    (firstCause (causesOf s i) = none → ∀ t r, exec i s = .next t → t.responses = s.responses ++ [r] →
      r.rsp.extractLsb' 28 4 ≠ 1)

/-- READ_REV without a cached word is refused, with no access and no state change, and nothing else ever is (R114,
R125, R161; decisions D10, D13). -/
def Obligations.OnlyUnprimedReadRevIsRefused : Prop :=
  (∀ s : State, s.cfgValid = false →
    exec .readRev s = .next { s with busy := false, responses := s.responses ++ [⟨0x31000000, none⟩] }) ∧
  (∀ (i : Instr) (s t : State) (r : Response), exec i s = .next t → t.responses = s.responses ++ [r] →
    (r.rsp.extractLsb' 28 4 = 3 ↔ i = .readRev ∧ s.cfgValid = false))

/-- A command that fails at its first access changes nothing but its trace and its response (R157; decision D16). -/
def Obligations.FirstAccessFailureChangesNothing : Prop :=
  ∀ (i : Instr) (s : State) (k : AccessKind) (ks : List AccessKind) (err : TransportErr),
    ¬ OperandsInvalid s i → (i = .readRev → s.cfgValid = true) → accessMatrix i = k :: ks →
    (∀ q : Request, nextAnswer s q = .failure err) →
    ∃ e : Event, kindOf (requestOf e) = k ∧ failureOf e = some err ∧
      exec i s = .next { afterAccesses s [e] with
        busy := false, responses := s.responses ++ [⟨0x20000000, some err⟩] }

/-- READ_REV that fails at its write: the sample is lost, the cache stays, an armed phase is Idle (R114, R157;
decision D16). -/
def Obligations.ReadRevWriteFailureLosesSample : Prop :=
  ∀ (s : State) (raw : Word16) (err : TransportErr), s.cfgValid = true →
    EnvironmentDoes s [.didRead .conversion raw, .writeFailed .config (s.cfgCache ||| 0x8000) err] →
    exec .readRev s = .next { afterAccesses s
        [.didRead .conversion raw, .writeFailed .config (s.cfgCache ||| 0x8000) err] with
      busy := false
      phase := if s.phase = .singleShotArmed then .idle else s.phase
      responses := s.responses ++ [⟨0x20000000, some err⟩] }

/-- ALERT_START, with a threshold or without, that fails at its second or third write leaves the thresholds written so
far and the old ConfigWord (R115, R157, R192; decisions D1 to D6 for the word, D14, D16). -/
def Obligations.AlertStartFailureLeavesMixedState : Prop :=
  ∀ (s : State) (rate ch1 : Int) (ch2 thr : Option Int) (c k : Int) (err : TransportErr), InRange 0 7 rate →
    ((ch1, ch2), c) ∈ channelPairs → InRange 0 5 s.gainIndex → k = thr.getD (largestThreshold s.variant) →
    InRange 0 (largestThreshold s.variant) k →
    (EnvironmentDoes s [.wrote .highThreshold (thresholdWord s.variant k), .writeFailed .lowThreshold 0x0000 err] →
      exec (.alertStart rate ch1 ch2 thr) s = .next { afterAccesses s
          [.wrote .highThreshold (thresholdWord s.variant k), .writeFailed .lowThreshold 0x0000 err] with
        busy := false
        thrHi := thresholdWord s.variant k, thrHiValid := true
        responses := s.responses ++ [⟨0x20000000, some err⟩] }) ∧
    (EnvironmentDoes s [.wrote .highThreshold (thresholdWord s.variant k), .wrote .lowThreshold 0x0000,
        .writeFailed .config (caWord c s.gainIndex rate) err] →
      exec (.alertStart rate ch1 ch2 thr) s = .next { afterAccesses s
          [.wrote .highThreshold (thresholdWord s.variant k), .wrote .lowThreshold 0x0000,
            .writeFailed .config (caWord c s.gainIndex rate) err] with
        busy := false
        thrHi := thresholdWord s.variant k, thrHiValid := true, thrLo := 0x0000, thrLoValid := true
        responses := s.responses ++ [⟨0x20000000, some err⟩] })

/-- CONVERSION_START that fails at its second or third write leaves the thresholds written so far and the old
ConfigWord, whatever its two OPEN parameters are (R117, R157, R192; decisions D1 to D6 for the word, D14, D15, D16;
log 7). -/
def Obligations.ConversionStartFailureLeavesMixedState : Prop :=
  ∀ (s : State) (rate ch1 : Int) (ch2 : Option Int) (c : Int) (err : TransportErr), InRange 0 7 rate →
    ((ch1, ch2), c) ∈ channelPairs → InRange 0 5 s.gainIndex →
    (EnvironmentDoes s [.wrote .highThreshold (Config.convstartHiRaw s.variant),
        .writeFailed .lowThreshold 0x0000 err] →
      exec (.conversionStart rate ch1 ch2) s = .next { afterAccesses s
          [.wrote .highThreshold (Config.convstartHiRaw s.variant), .writeFailed .lowThreshold 0x0000 err] with
        busy := false
        thrHi := Config.convstartHiRaw s.variant, thrHiValid := true
        responses := s.responses ++ [⟨0x20000000, some err⟩] }) ∧
    (EnvironmentDoes s [.wrote .highThreshold (Config.convstartHiRaw s.variant), .wrote .lowThreshold 0x0000,
        .writeFailed .config (ceWord Config.cmpEvery c s.gainIndex rate) err] →
      exec (.conversionStart rate ch1 ch2) s = .next { afterAccesses s
          [.wrote .highThreshold (Config.convstartHiRaw s.variant), .wrote .lowThreshold 0x0000,
            .writeFailed .config (ceWord Config.cmpEvery c s.gainIndex rate) err] with
        busy := false
        thrHi := Config.convstartHiRaw s.variant, thrHiValid := true, thrLo := 0x0000, thrLoValid := true
        responses := s.responses ++ [⟨0x20000000, some err⟩] })

/-- BLOCKING_READ that fails at its first poll or at its register-0 read stays armed with its word cached (R157;
decisions D11, D16). -/
def Obligations.BlockingReadFailureStaysArmed : Prop :=
  ∀ (s : State) (rate ch1 : Int) (ch2 : Option Int) (c : Int) (p : Word16) (err : TransportErr), InRange 0 7 rate →
    ((ch1, ch2), c) ∈ channelPairs → InRange 0 5 s.gainIndex → p.getLsbD 15 = true →
    (EnvironmentDoes s [.wrote .config (ssWord c s.gainIndex rate), .readFailed .config err] →
      exec (.blockingRead rate ch1 ch2) s = .next { afterAccesses s
          [.wrote .config (ssWord c s.gainIndex rate), .readFailed .config err] with
        busy := false
        cfgCache := ssWord c s.gainIndex rate, cfgValid := true, phase := .singleShotArmed
        responses := s.responses ++ [⟨0x20000000, some err⟩] }) ∧
    (EnvironmentDoes s [.wrote .config (ssWord c s.gainIndex rate), .didRead .config p,
        .readFailed .conversion err] →
      exec (.blockingRead rate ch1 ch2) s = .next { afterAccesses s
          [.wrote .config (ssWord c s.gainIndex rate), .didRead .config p, .readFailed .conversion err] with
        busy := false
        cfgCache := ssWord c s.gainIndex rate, cfgValid := true, phase := .singleShotArmed
        responses := s.responses ++ [⟨0x20000000, some err⟩] })

/-! ### The codec commands (41_codec.md) -/

/-- ENCODE_CONFIG with operands in range returns the word of R92's formula and changes nothing else; the gain is the
operand (decisions D1 to D4, D6 for the layout). -/
def Obligations.EncodeConfigCompletes : Prop :=
  ∀ (mode : ConvMode) (rate chan gain : Int) (cmp : Bool) (s : State), InRange 0 7 rate → InRange 0 7 chan →
    InRange 0 5 gain →
    exec (.encodeConfig mode rate chan gain cmp) s = .next { s with
      busy := false
      responses := s.responses ++ [valueResponse (BitVec.ofInt 16
        ((match mode with | .singleShot => 0x8100 | .continuous => 0) + 4096 * chan + 512 * gain + 32 * rate +
          (if cmp then 0 else 3)))] }

/-- DECODE_CONFIG returns the six fields of R93, packed as R85 says, for every word (decisions D1 to D4, D7, D10). -/
def Obligations.DecodeConfigCompletes : Prop :=
  ∀ (raw : Word16) (s : State),
    exec (.decodeConfig raw) s = .next { s with
      busy := false
      responses := s.responses ++ [valueResponse (BitVec.ofNat 16
        (2048 * (raw.toNat / 32768) + 256 * (raw.toNat / 4096 % 8) + 32 * (raw.toNat / 512 % 8) +
          16 * (raw.toNat / 256 % 2) + 2 * (raw.toNat / 32 % 8) + (if raw.toNat % 4 = 3 then 0 else 1)))] }

/-- DECODE_SAMPLE returns the sample of R94 for every word on both variants: floor division, not truncation (the
16-bit form is decision D18). -/
def Obligations.DecodeSampleCompletes : Prop :=
  ∀ (raw : Word16) (s : State),
    exec (.decodeSample raw) s = .next { s with
      busy := false, responses := s.responses ++ [sampleResponse s.variant raw] }

/-- ENCODE_THRESHOLD of a threshold in range returns its raw form (R95). -/
def Obligations.EncodeThresholdCompletes : Prop :=
  ∀ (value : Int) (s : State), InRange 0 (largestThreshold s.variant) value →
    exec (.encodeThreshold value) s = .next { s with
      busy := false, responses := s.responses ++ [valueResponse (thresholdWord s.variant value)] }

/-- The four codec commands read no handle state but the variant (and ENCODE_CONFIG and DECODE_CONFIG not even that),
write none, make no access, cannot end in TransportError, and so have no effect on a later command (R96). -/
def Obligations.CodecCommandsArePure : Prop :=
  (∀ i : Instr, isCodec i = true → ∃ answer : Variant → Word32, ∀ s : State,
    exec i s = .next { s with busy := false, responses := s.responses ++ [⟨answer s.variant, none⟩] }) ∧
  (∀ i : Instr, (∃ mode rate chan gain cmp, i = .encodeConfig mode rate chan gain cmp) ∨
      (∃ raw, i = .decodeConfig raw) → ∃ answer : Word32, ∀ s : State,
    exec i s = .next { s with busy := false, responses := s.responses ++ [⟨answer, none⟩] })

/-- The laws of R98: the round trip, the full-scale samples, the accepted thresholds, the sample range. -/
def Obligations.CodecLaws : Prop :=
  (∀ (mode : ConvMode) (r c g : Int) (cmp : Bool), InRange 0 5 g → InRange 0 7 r → InRange 0 7 c →
    ∃ w, encodeConfig mode r c g cmp = .ok w ∧
      (decodeConfig w).os = modeBit mode ∧ ((decodeConfig w).chan.toNat : Int) = c ∧
      ((decodeConfig w).gain.toNat : Int) = g ∧ (decodeConfig w).mode = modeBit mode ∧
      ((decodeConfig w).rate.toNat : Int) = r ∧ (decodeConfig w).cmpEn = BitVec.ofBool cmp) ∧
  (∀ v : Variant, decodeSample v 0xFFFF = -1) ∧
  (decodeSample .v16 0x7FFF = 32767 ∧ decodeSample .v12 0x7FF0 = 2047) ∧
  (∀ (v : Variant) (t : Int), (∃ w, encodeThreshold v t = .ok w) ↔ 0 ≤ t ∧ t ≤ maxThr v) ∧
  (∀ (v : Variant) (raw : Word16),
    -2 ^ (bitDepth v - 1) ≤ decodeSample v raw ∧ decodeSample v raw ≤ 2 ^ (bitDepth v - 1) - 1)

/-- An accepted threshold has bit 15 clear and decodes to itself (R95, its corner cases). -/
def Obligations.EncodedThresholdDecodesToItself : Prop :=
  ∀ (v : Variant) (t : Int) (w : Word16), encodeThreshold v t = .ok w →
    w.getLsbD 15 = false ∧ decodeSample v w = t

/-- The variant profile: the two instances, shift = 16 - bitDepth, maxThreshold = 2^(bitDepth-1) - 1, and the sample
ranges, each end of which is a sample (R21). -/
def Obligations.VariantProfileAndSampleRange : Prop :=
  (bitDepth .v12 = 12 ∧ shift .v12 = 4 ∧ maxThr .v12 = 2047) ∧
  (bitDepth .v16 = 16 ∧ shift .v16 = 0 ∧ maxThr .v16 = 32767) ∧
  (∀ v : Variant, shift v = 16 - bitDepth v ∧ maxThr v = 2 ^ (bitDepth v - 1) - 1) ∧
  (∀ i : Int, (∃ raw, decodeSample .v12 raw = i) ↔ -2048 ≤ i ∧ i ≤ 2047) ∧
  (∀ i : Int, (∃ raw, decodeSample .v16 raw = i) ↔ -32768 ≤ i ∧ i ≤ 32767) ∧
  (∀ s t : State, step s = .next t → t.variant = s.variant)

/-! ### The controller commands (42_controller.md) -/

/-- SET_CONV with valid operands and a successful write: one write of the single-shot word, which is cached, and the
phase is armed; nothing else changes (R113; decisions D1 to D6 for the word). -/
def Obligations.SetConvCompletes : Prop :=
  ∀ (s : State) (rate ch1 : Int) (ch2 : Option Int) (c : Int), InRange 0 7 rate → ((ch1, ch2), c) ∈ channelPairs →
    InRange 0 5 s.gainIndex → EnvironmentDoes s [.wrote .config (ssWord c s.gainIndex rate)] →
    exec (.setConv rate ch1 ch2) s = .next { afterAccesses s [.wrote .config (ssWord c s.gainIndex rate)] with
      busy := false
      cfgCache := ssWord c s.gainIndex rate, cfgValid := true, phase := .singleShotArmed
      responses := s.responses ++ [⟨0, none⟩] }

/-- BLOCKING_READ whose first poll has bit 15 set: W1, R1, R0, the sample, phase Idle, its word cached (R112;
decisions D1 to D6 for the word, D11 for the cache). -/
def Obligations.BlockingReadCompletes : Prop :=
  ∀ (s : State) (rate ch1 : Int) (ch2 : Option Int) (c : Int) (p raw : Word16), InRange 0 7 rate →
    ((ch1, ch2), c) ∈ channelPairs → InRange 0 5 s.gainIndex → p.getLsbD 15 = true →
    EnvironmentDoes s [.wrote .config (ssWord c s.gainIndex rate), .didRead .config p, .didRead .conversion raw] →
    exec (.blockingRead rate ch1 ch2) s = .next { afterAccesses s
        [.wrote .config (ssWord c s.gainIndex rate), .didRead .config p, .didRead .conversion raw] with
      busy := false
      cfgCache := ssWord c s.gainIndex rate, cfgValid := true, phase := .idle
      responses := s.responses ++ [sampleResponse s.variant raw] }

/-- BLOCKING_READ with any number of polls that read bit 15 clear before one that reads it set: one write, those
polls, one read of register 0, and the sample, in as many steps as there are polls (R112, R118; that each poll after
the first is a step is the model's choice, log 2). -/
def Obligations.BlockingReadReturnsAfterAnyPolls : Prop :=
  ∀ (s : State) (word : Word64) (rest : List Word64) (rate ch1 : Int) (ch2 : Option Int) (c : Int)
    (polls : List Word16) (p raw : Word16), s.busy = false → s.program = word :: rest →
    decode word = .ok (.blockingRead rate ch1 ch2) → InRange 0 7 rate → ((ch1, ch2), c) ∈ channelPairs →
    InRange 0 5 s.gainIndex → (∀ q ∈ polls, q.getLsbD 15 = false) → p.getLsbD 15 = true →
    EnvironmentDoes s (.wrote .config (ssWord c s.gainIndex rate) :: polls.map (.didRead .config) ++
      [.didRead .config p, .didRead .conversion raw]) →
    Host.Core.run core (polls.length + 1) s = .next { afterAccesses s
        (.wrote .config (ssWord c s.gainIndex rate) :: polls.map (.didRead .config) ++
          [.didRead .config p, .didRead .conversion raw]) with
      program := rest
      cfgCache := ssWord c s.gainIndex rate, cfgValid := true, phase := .idle
      responses := s.responses ++ [sampleResponse s.variant raw] }

/-- While every poll reads bit 15 clear BLOCKING_READ goes on: after any number of steps it is still busy and armed,
has answered nothing and taken no other command; there is no timeout (R112, R164; decision D22; log 2). -/
def Obligations.BlockingReadNeverTimesOut : Prop :=
  ∀ (s : State) (word : Word64) (rest : List Word64) (rate ch1 : Int) (ch2 : Option Int) (c : Int)
    (q : Word16) (polls : List Word16), s.busy = false → s.program = word :: rest →
    decode word = .ok (.blockingRead rate ch1 ch2) → InRange 0 7 rate → ((ch1, ch2), c) ∈ channelPairs →
    InRange 0 5 s.gainIndex → (∀ p ∈ q :: polls, p.getLsbD 15 = false) →
    EnvironmentDoes s (.wrote .config (ssWord c s.gainIndex rate) :: (q :: polls).map (.didRead .config)) →
    Host.Core.run core (polls.length + 1) s = .next { afterAccesses s
        (.wrote .config (ssWord c s.gainIndex rate) :: (q :: polls).map (.didRead .config)) with
      program := rest, busy := true
      cfgCache := ssWord c s.gainIndex rate, cfgValid := true, phase := .singleShotArmed }

/-- READ_REV on a primed handle: R0, then W1 with the cached word's start bit set, which is cached; the phase follows
that word's mode bit; the sample is of the word read (R114, R122; decisions D2, D3). -/
def Obligations.ReadRevCompletes : Prop :=
  ∀ (s : State) (raw : Word16), s.cfgValid = true →
    EnvironmentDoes s [.didRead .conversion raw, .wrote .config (s.cfgCache ||| 0x8000)] →
    exec .readRev s = .next { afterAccesses s
        [.didRead .conversion raw, .wrote .config (s.cfgCache ||| 0x8000)] with
      busy := false
      cfgCache := s.cfgCache ||| 0x8000
      phase := if s.cfgCache.getLsbD 8 then .singleShotArmed else .continuous
      responses := s.responses ++ [sampleResponse s.variant raw] }

/-- ALERT_START with valid operands: W3 with the encoded threshold, or the variant's maximum when it is absent, W2
with 0, W1 with the continuous word; all three are recorded and the phase is Continuous (R115; decisions D1 to D6
for the word, D14 for the order). -/
def Obligations.AlertStartCompletes : Prop :=
  ∀ (s : State) (rate ch1 : Int) (ch2 thr : Option Int) (c k : Int), InRange 0 7 rate →
    ((ch1, ch2), c) ∈ channelPairs → InRange 0 5 s.gainIndex → k = thr.getD (largestThreshold s.variant) →
    InRange 0 (largestThreshold s.variant) k →
    EnvironmentDoes s [.wrote .highThreshold (thresholdWord s.variant k), .wrote .lowThreshold 0x0000,
      .wrote .config (caWord c s.gainIndex rate)] →
    exec (.alertStart rate ch1 ch2 thr) s = .next { afterAccesses s
        [.wrote .highThreshold (thresholdWord s.variant k), .wrote .lowThreshold 0x0000,
          .wrote .config (caWord c s.gainIndex rate)] with
      busy := false
      thrHi := thresholdWord s.variant k, thrHiValid := true, thrLo := 0x0000, thrLoValid := true
      cfgCache := caWord c s.gainIndex rate, cfgValid := true, phase := .continuous
      responses := s.responses ++ [⟨0, none⟩] }

/-- ALERT_READ: R0 and its sample; only an armed phase changes, to Idle (R116, R123; decision D17). -/
def Obligations.AlertReadCompletes : Prop :=
  ∀ (s : State) (raw : Word16), EnvironmentDoes s [.didRead .conversion raw] →
    exec .alertRead s = .next { afterAccesses s [.didRead .conversion raw] with
      busy := false
      phase := if s.phase = .singleShotArmed then .idle else s.phase
      responses := s.responses ++ [sampleResponse s.variant raw] }

/-- CONVERSION_START with valid operands: as ALERT_START, with CONVSTART_HI_RAW as the high threshold and CMP_EVERY in
the word, whatever the two OPEN parameters are (R117; decisions D1 to D6, D14, D15; log 7). -/
def Obligations.ConversionStartCompletes : Prop :=
  ∀ (s : State) (rate ch1 : Int) (ch2 : Option Int) (c : Int), InRange 0 7 rate → ((ch1, ch2), c) ∈ channelPairs →
    InRange 0 5 s.gainIndex →
    EnvironmentDoes s [.wrote .highThreshold (Config.convstartHiRaw s.variant), .wrote .lowThreshold 0x0000,
      .wrote .config (ceWord Config.cmpEvery c s.gainIndex rate)] →
    exec (.conversionStart rate ch1 ch2) s = .next { afterAccesses s
        [.wrote .highThreshold (Config.convstartHiRaw s.variant), .wrote .lowThreshold 0x0000,
          .wrote .config (ceWord Config.cmpEvery c s.gainIndex rate)] with
      busy := false
      thrHi := Config.convstartHiRaw s.variant, thrHiValid := true, thrLo := 0x0000, thrLoValid := true
      cfgCache := ceWord Config.cmpEvery c s.gainIndex rate, cfgValid := true, phase := .continuous
      responses := s.responses ++ [⟨0, none⟩] }

/-- Under the instantiation I-DOC CONVERSION_START does what ALERT_START does without a threshold, in every case
(R117; decision D15). -/
def Obligations.ConversionStartUnderIDocIsAlertStart : Prop :=
  ∀ (s : State) (rate ch1 : Int) (ch2 : Option Int),
    exec (.alertStart rate ch1 ch2 none) s =
      .next (conversionStartWith (convstartHiDoc s.variant) cmpEveryNamed rate ch1 ch2 s)

/-- The access counts of R127 when no access fails: SET_CONV 1, READ_REV 2, ALERT_START and CONVERSION_START 3,
ALERT_READ 1, each of them ended; BLOCKING_READ 3 or more when it has ended; the codec commands 0. -/
def Obligations.AccessCountsAreBounded : Prop :=
  ∀ (i : Instr) (s t : State) (evs : List Event), ¬ OperandsInvalid s i → (i = .readRev → s.cfgValid = true) →
    exec i s = .next t → t.trace = s.trace ++ accessesOf s evs → (∀ e ∈ evs, failureOf e = none) →
    match i with
    | .setConv .. => evs.length = 1 ∧ t.busy = false
    | .readRev => evs.length = 2 ∧ t.busy = false
    | .alertStart .. => evs.length = 3 ∧ t.busy = false
    | .conversionStart .. => evs.length = 3 ∧ t.busy = false
    | .alertRead => evs.length = 1 ∧ t.busy = false
    | .blockingRead .. => t.busy = false → 3 ≤ evs.length
    | .writeRegister .. => evs.length = 1 ∧ t.busy = false
    | .readRegister .. => evs.length = 1 ∧ t.busy = false
    | .encodeConfig .. => evs = [] ∧ t.busy = false
    | .decodeConfig .. => evs = [] ∧ t.busy = false
    | .decodeSample .. => evs = [] ∧ t.busy = false
    | .encodeThreshold .. => evs = [] ∧ t.busy = false

/-! ### Raw access (43_raw_access.md) -/

/-- WRITE_REGISTER with an index 0 to 3, 0 included: one write of that register with the value as given (R140;
decision D24). -/
def Obligations.WriteRegisterCompletes : Prop :=
  ∀ (s : State) (reg : DevReg) (value : Word16), EnvironmentDoes s [.wrote reg value] →
    exec (.writeRegister (registerNumber reg) value) s =
      .next { afterAccesses s [.wrote reg value] with
        busy := false, responses := s.responses ++ [⟨0, none⟩] }

/-- READ_REGISTER with an index 0 to 3: one read of that register, the value undecoded, the phase unchanged even for
register 0 (R141; decision D24). -/
def Obligations.ReadRegisterCompletes : Prop :=
  ∀ (s : State) (reg : DevReg) (v : Word16), EnvironmentDoes s [.didRead reg v] →
    exec (.readRegister (registerNumber reg)) s =
      .next { afterAccesses s [.didRead reg v] with
        busy := false, responses := s.responses ++ [valueResponse v] }

/-- A raw write of register 1 is undone by the next READ_REV, which replays the word cached before it (R190; decision
D24). -/
def Obligations.RawWriteIsUndoneByReadRev : Prop :=
  ∀ (s t u : State) (v raw : Word16), s.cfgValid = true →
    EnvironmentDoes s [.wrote .config v, .didRead .conversion raw, .wrote .config (s.cfgCache ||| 0x8000)] →
    exec (.writeRegister 1 v) s = .next t → exec .readRev t = .next u →
    u.trace = s.trace ++ accessesOf s
      [.wrote .config v, .didRead .conversion raw, .wrote .config (s.cfgCache ||| 0x8000)] ∧
    u.cfgCache = s.cfgCache ||| 0x8000

/-! ### The protocols -/

/-- Protocol 2: SET_CONV and then N READ_REVs make N reads of register 0 and N + 1 writes of register 1 in strict
alternation, never read register 1, and return the decoded answers in order (R119, W6; conflict C1; decisions D1 to
D6 for the word). -/
def Obligations.PipelineAlternatesReadAndRetrigger : Prop :=
  ∀ (s : State) (word : Word64) (rest : List Word64) (rate ch1 : Int) (ch2 : Option Int) (c : Int)
    (raws : List Word16), s.busy = false →
    s.program = word :: (List.replicate raws.length 0x7000000000000000 ++ rest) →
    decode word = .ok (.setConv rate ch1 ch2) → InRange 0 7 rate → ((ch1, ch2), c) ∈ channelPairs →
    InRange 0 5 s.gainIndex →
    EnvironmentDoes s (.wrote .config (ssWord c s.gainIndex rate) ::
      raws.flatMap fun raw => [.didRead .conversion raw, .wrote .config (ssWord c s.gainIndex rate)]) →
    Host.Core.run core (raws.length + 1) s = .next { afterAccesses s
        (.wrote .config (ssWord c s.gainIndex rate) ::
          raws.flatMap fun raw => [.didRead .conversion raw, .wrote .config (ssWord c s.gainIndex rate)]) with
      program := rest
      cfgCache := ssWord c s.gainIndex rate, cfgValid := true, phase := .singleShotArmed
      responses := s.responses ++ [⟨0, none⟩] ++ raws.map (sampleResponse s.variant) }

/-- Protocol 3: after a start command any number of ALERT_READs makes one read of register 0 each, returns the decoded
answers in order, and the phase stays Continuous (R116, R120). -/
def Obligations.ContinuousReadsNeedNoRetrigger : Prop :=
  ∀ (s : State) (rest : List Word64) (raws : List Word16), s.busy = false → s.phase = .continuous →
    s.program = List.replicate raws.length 0x9000000000000000 ++ rest →
    EnvironmentDoes s (raws.map (.didRead .conversion)) →
    Host.Core.run core raws.length s = .next { afterAccesses s (raws.map (.didRead .conversion)) with
      program := rest, responses := s.responses ++ raws.map (sampleResponse s.variant) }

/-! ### What a command cannot depend on -/

/-- The phase is never consulted: from states that differ only in the phase a step makes the same accesses, gives the
same responses and leaves the same registers but for the phase (R125; decision D17). -/
def Obligations.PhaseIsNeverConsulted : Prop :=
  ∀ (s t : State) (p : Phase), step s = .next t →
    ∃ q : Phase, step { s with phase := p } = .next { t with phase := q }

/-- A register whose valid flag is 0 is never read: from states that look alike from outside a step leads to states
that look alike from outside (R24, R25, R33, U13). So no result depends on the values that log 5 chooses. -/
def Obligations.InvalidRegistersAreNeverRead : Prop :=
  ∀ s₁ s₂ t₁ t₂ : State, visible s₁ = visible s₂ → step s₁ = .next t₁ → step s₂ = .next t₂ →
    visible t₁ = visible t₂
end

