-- ==== Sys2Proof/Laws/Operands.lean ====
section
/-! SUPPORT. What operand validation can answer: the channel pair, the register index, the common prologue, the
threshold. -/

namespace Sys2Proof.Machine

/-- `chanOf` answers an index exactly on the eight pairs (R90). -/
theorem chanOf_eq_ok {ch1 : Int} {ch2 : Option Int} {c : Int} :
    chanOf ch1 ch2 = .ok c ↔ ((ch1, ch2), c) ∈ channelPairs := by
  unfold chanOf channelPairs
  split_ifs <;> simp_all <;> omega

/-- Every channel index of the eight pairs is 0 to 7. -/
theorem inRange_of_mem_channelPairs {p : Int × Option Int} {c : Int} (h : (p, c) ∈ channelPairs) : InRange 0 7 c := by
  simp only [channelPairs, List.mem_cons, Prod.mk.injEq, List.not_mem_nil, or_false] at h
  rcases h with h | h | h | h | h | h | h | h <;> (rw [h.2]; decide)

/-- `chanOf` answers an index or raises ChannelRange. -/
theorem chanOf_cases (ch1 : Int) (ch2 : Option Int) :
    (∃ c, chanOf ch1 ch2 = .ok c ∧ ((ch1, ch2), c) ∈ channelPairs) ∨ chanOf ch1 ch2 = .error .channelRange := by
  cases h : chanOf ch1 ch2 with
  | ok c => exact .inl ⟨c, rfl, chanOf_eq_ok.mp h⟩
  | error e =>
    right
    unfold chanOf at h
    split_ifs at h
    simp_all

/-- `prepare` answers the pair's channel index when rate, pair and gain are valid, and raises the first cause
otherwise (R110). -/
theorem prepare_cases (s : State) (rate ch1 : Int) (ch2 : Option Int) :
    (∃ c, prepare s rate ch1 ch2 = .ok c ∧ InRange 0 7 rate ∧ ((ch1, ch2), c) ∈ channelPairs ∧
      InRange 0 5 s.gainIndex) ∨
    (prepare s rate ch1 ch2 = .error .rateRange ∧ RateOut rate) ∨
    (prepare s rate ch1 ch2 = .error .channelRange ∧ InRange 0 7 rate ∧ chanOf ch1 ch2 = .error .channelRange) ∨
    (prepare s rate ch1 ch2 = .error .gainRange ∧ InRange 0 7 rate ∧ (∃ c, ((ch1, ch2), c) ∈ channelPairs) ∧
      GainOut s.gainIndex) := by
  unfold prepare
  by_cases hr : InRange 0 7 rate
  · rcases chanOf_cases ch1 ch2 with ⟨c, hc, hm⟩ | hc
    · by_cases hg : InRange 0 5 s.gainIndex
      · exact .inl ⟨c, by simp [hr, hc, hg], hr, hm, hg⟩
      · exact .inr (.inr (.inr ⟨by simp [hr, hc, hg], hr, ⟨c, hm⟩, by unfold InRange at hg; unfold GainOut; omega⟩))
    · exact .inr (.inr (.inl ⟨by simp [hr, hc], hr, hc⟩))
  · exact .inr (.inl ⟨by simp [hr], by unfold InRange at hr; unfold RateOut; omega⟩)

/-- The valid case of `prepare`. -/
theorem prepare_of_valid {s : State} {rate ch1 : Int} {ch2 : Option Int} {c : Int} (hr : InRange 0 7 rate)
    (hc : ((ch1, ch2), c) ∈ channelPairs) (hg : InRange 0 5 s.gainIndex) : prepare s rate ch1 ch2 = .ok c := by
  simp [prepare, hr, hg, chanOf_eq_ok.mpr hc]

/-- A register index names its register, and every other index raises (R140, R151). -/
theorem registerOf_cases (idx : Int) :
    (∃ reg, registerOf idx = .ok reg ∧ idx = indexOf reg) ∨
    (registerOf idx = .error .registerIndexRange ∧ IndexOut idx) := by
  by_cases h0 : idx = 0
  · exact .inl ⟨.conversion, by simp [registerOf, h0], h0⟩
  by_cases h1 : idx = 1
  · exact .inl ⟨.config, by simp [registerOf, h1], h1⟩
  by_cases h2 : idx = 2
  · exact .inl ⟨.lowThreshold, by simp [registerOf, h2], h2⟩
  by_cases h3 : idx = 3
  · exact .inl ⟨.highThreshold, by simp [registerOf, h3], h3⟩
  · exact .inr ⟨by simp [registerOf, h0, h1, h2, h3], by unfold IndexOut; omega⟩

@[simp] theorem registerOf_indexOf (reg : DevReg) : registerOf (indexOf reg) = .ok reg := by
  cases reg <;> rfl

/-- A threshold is encoded when it is in range, and raises otherwise (R95). -/
theorem encodeThreshold_cases (v : Variant) (t : Int) :
    (encodeThreshold v t = .ok (thresholdWord v t) ∧ InRange 0 (largestThreshold v) t) ∨
    (encodeThreshold v t = .error .thresholdRange ∧ ThresholdOut v t) := by
  by_cases h : InRange 0 (maxThr v) t
  · left
    refine ⟨?_, ?_⟩
    · cases v <;> simp [encodeThreshold, h, thresholdWord, shl16, toU16, shift, bitDepth]
    · cases v <;> simpa [maxThr, bitDepth, largestThreshold] using h
  · right
    refine ⟨by simp [encodeThreshold, h], ?_⟩
    cases v <;> simp [InRange, maxThr, bitDepth] at h <;> unfold ThresholdOut <;> dsimp <;> omega

/-- The valid case of `encodeThreshold`. -/
theorem encodeThreshold_of_valid {v : Variant} {t : Int} (h : InRange 0 (largestThreshold v) t) :
    encodeThreshold v t = .ok (thresholdWord v t) := by
  rcases encodeThreshold_cases v t with h' | h'
  · exact h'.1
  · exfalso
    have := h'.2
    cases v <;> simp [InRange, ThresholdOut, largestThreshold] at * <;> omega

/-- The variant's maximum threshold as a number (R21). -/
theorem maxThr_eq (v : Variant) : maxThr v = largestThreshold v := by
  cases v <;> rfl

end Sys2Proof.Machine
end

