-- ==== Sys2Proof/Laws/State.lean ====
section
/-! SUPPORT. One lemma per field of State per update of it (true by rfl), so that no proof unfolds a record update. -/

namespace Sys2Proof.Machine

variable (s : State)

/-! ### respond: the end of a command -/

@[simp] theorem respond_variant (r : Response) : (respond s r).variant = s.variant := rfl
@[simp] theorem respond_busAddr (r : Response) : (respond s r).busAddr = s.busAddr := rfl
@[simp] theorem respond_gainIndex (r : Response) : (respond s r).gainIndex = s.gainIndex := rfl
@[simp] theorem respond_cfgCache (r : Response) : (respond s r).cfgCache = s.cfgCache := rfl
@[simp] theorem respond_cfgValid (r : Response) : (respond s r).cfgValid = s.cfgValid := rfl
@[simp] theorem respond_thrHi (r : Response) : (respond s r).thrHi = s.thrHi := rfl
@[simp] theorem respond_thrHiValid (r : Response) : (respond s r).thrHiValid = s.thrHiValid := rfl
@[simp] theorem respond_thrLo (r : Response) : (respond s r).thrLo = s.thrLo := rfl
@[simp] theorem respond_thrLoValid (r : Response) : (respond s r).thrLoValid = s.thrLoValid := rfl
@[simp] theorem respond_phase (r : Response) : (respond s r).phase = s.phase := rfl
@[simp] theorem respond_busy (r : Response) : (respond s r).busy = false := rfl
@[simp] theorem respond_program (r : Response) : (respond s r).program = s.program := rfl
@[simp] theorem respond_answers (r : Response) : (respond s r).answers = s.answers := rfl
@[simp] theorem respond_trace (r : Response) : (respond s r).trace = s.trace := rfl
@[simp] theorem respond_responses (r : Response) : (respond s r).responses = s.responses ++ [r] := rfl

/-! ### logAccess: one access -/

@[simp] theorem logAccess_variant (e : Event) : (logAccess s e).variant = s.variant := rfl
@[simp] theorem logAccess_busAddr (e : Event) : (logAccess s e).busAddr = s.busAddr := rfl
@[simp] theorem logAccess_gainIndex (e : Event) : (logAccess s e).gainIndex = s.gainIndex := rfl
@[simp] theorem logAccess_cfgCache (e : Event) : (logAccess s e).cfgCache = s.cfgCache := rfl
@[simp] theorem logAccess_cfgValid (e : Event) : (logAccess s e).cfgValid = s.cfgValid := rfl
@[simp] theorem logAccess_thrHi (e : Event) : (logAccess s e).thrHi = s.thrHi := rfl
@[simp] theorem logAccess_thrHiValid (e : Event) : (logAccess s e).thrHiValid = s.thrHiValid := rfl
@[simp] theorem logAccess_thrLo (e : Event) : (logAccess s e).thrLo = s.thrLo := rfl
@[simp] theorem logAccess_thrLoValid (e : Event) : (logAccess s e).thrLoValid = s.thrLoValid := rfl
@[simp] theorem logAccess_phase (e : Event) : (logAccess s e).phase = s.phase := rfl
@[simp] theorem logAccess_busy (e : Event) : (logAccess s e).busy = s.busy := rfl
@[simp] theorem logAccess_program (e : Event) : (logAccess s e).program = s.program := rfl
@[simp] theorem logAccess_answers (e : Event) : (logAccess s e).answers = s.answers.tail := rfl
@[simp] theorem logAccess_trace (e : Event) : (logAccess s e).trace = s.trace ++ [⟨s.busAddr, e⟩] := rfl
@[simp] theorem logAccess_responses (e : Event) : (logAccess s e).responses = s.responses := rfl

/-! ### recordConfig: the record of a ConfigWord write -/

@[simp] theorem recordConfig_variant (w : Word16) : (recordConfig s w).variant = s.variant := rfl
@[simp] theorem recordConfig_busAddr (w : Word16) : (recordConfig s w).busAddr = s.busAddr := rfl
@[simp] theorem recordConfig_gainIndex (w : Word16) : (recordConfig s w).gainIndex = s.gainIndex := rfl
@[simp] theorem recordConfig_cfgCache (w : Word16) : (recordConfig s w).cfgCache = w := rfl
@[simp] theorem recordConfig_cfgValid (w : Word16) : (recordConfig s w).cfgValid = true := rfl
@[simp] theorem recordConfig_thrHi (w : Word16) : (recordConfig s w).thrHi = s.thrHi := rfl
@[simp] theorem recordConfig_thrHiValid (w : Word16) : (recordConfig s w).thrHiValid = s.thrHiValid := rfl
@[simp] theorem recordConfig_thrLo (w : Word16) : (recordConfig s w).thrLo = s.thrLo := rfl
@[simp] theorem recordConfig_thrLoValid (w : Word16) : (recordConfig s w).thrLoValid = s.thrLoValid := rfl
@[simp] theorem recordConfig_phase (w : Word16) : (recordConfig s w).phase = phaseAfterConfigWrite w := rfl
@[simp] theorem recordConfig_busy (w : Word16) : (recordConfig s w).busy = s.busy := rfl
@[simp] theorem recordConfig_program (w : Word16) : (recordConfig s w).program = s.program := rfl
@[simp] theorem recordConfig_answers (w : Word16) : (recordConfig s w).answers = s.answers := rfl
@[simp] theorem recordConfig_trace (w : Word16) : (recordConfig s w).trace = s.trace := rfl
@[simp] theorem recordConfig_responses (w : Word16) : (recordConfig s w).responses = s.responses := rfl

/-! ### recordHigh: the record of a high threshold write -/

@[simp] theorem recordHigh_variant (v : Word16) : (recordHigh s v).variant = s.variant := rfl
@[simp] theorem recordHigh_busAddr (v : Word16) : (recordHigh s v).busAddr = s.busAddr := rfl
@[simp] theorem recordHigh_gainIndex (v : Word16) : (recordHigh s v).gainIndex = s.gainIndex := rfl
@[simp] theorem recordHigh_cfgCache (v : Word16) : (recordHigh s v).cfgCache = s.cfgCache := rfl
@[simp] theorem recordHigh_cfgValid (v : Word16) : (recordHigh s v).cfgValid = s.cfgValid := rfl
@[simp] theorem recordHigh_thrHi (v : Word16) : (recordHigh s v).thrHi = v := rfl
@[simp] theorem recordHigh_thrHiValid (v : Word16) : (recordHigh s v).thrHiValid = true := rfl
@[simp] theorem recordHigh_thrLo (v : Word16) : (recordHigh s v).thrLo = s.thrLo := rfl
@[simp] theorem recordHigh_thrLoValid (v : Word16) : (recordHigh s v).thrLoValid = s.thrLoValid := rfl
@[simp] theorem recordHigh_phase (v : Word16) : (recordHigh s v).phase = s.phase := rfl
@[simp] theorem recordHigh_busy (v : Word16) : (recordHigh s v).busy = s.busy := rfl
@[simp] theorem recordHigh_program (v : Word16) : (recordHigh s v).program = s.program := rfl
@[simp] theorem recordHigh_answers (v : Word16) : (recordHigh s v).answers = s.answers := rfl
@[simp] theorem recordHigh_trace (v : Word16) : (recordHigh s v).trace = s.trace := rfl
@[simp] theorem recordHigh_responses (v : Word16) : (recordHigh s v).responses = s.responses := rfl

/-! ### recordLow: the record of a low threshold write -/

@[simp] theorem recordLow_variant (v : Word16) : (recordLow s v).variant = s.variant := rfl
@[simp] theorem recordLow_busAddr (v : Word16) : (recordLow s v).busAddr = s.busAddr := rfl
@[simp] theorem recordLow_gainIndex (v : Word16) : (recordLow s v).gainIndex = s.gainIndex := rfl
@[simp] theorem recordLow_cfgCache (v : Word16) : (recordLow s v).cfgCache = s.cfgCache := rfl
@[simp] theorem recordLow_cfgValid (v : Word16) : (recordLow s v).cfgValid = s.cfgValid := rfl
@[simp] theorem recordLow_thrHi (v : Word16) : (recordLow s v).thrHi = s.thrHi := rfl
@[simp] theorem recordLow_thrHiValid (v : Word16) : (recordLow s v).thrHiValid = s.thrHiValid := rfl
@[simp] theorem recordLow_thrLo (v : Word16) : (recordLow s v).thrLo = v := rfl
@[simp] theorem recordLow_thrLoValid (v : Word16) : (recordLow s v).thrLoValid = true := rfl
@[simp] theorem recordLow_phase (v : Word16) : (recordLow s v).phase = s.phase := rfl
@[simp] theorem recordLow_busy (v : Word16) : (recordLow s v).busy = s.busy := rfl
@[simp] theorem recordLow_program (v : Word16) : (recordLow s v).program = s.program := rfl
@[simp] theorem recordLow_answers (v : Word16) : (recordLow s v).answers = s.answers := rfl
@[simp] theorem recordLow_trace (v : Word16) : (recordLow s v).trace = s.trace := rfl
@[simp] theorem recordLow_responses (v : Word16) : (recordLow s v).responses = s.responses := rfl

/-! ### recordRetrieval: the record of a retrieved value -/

@[simp] theorem recordRetrieval_variant : (recordRetrieval s).variant = s.variant := rfl
@[simp] theorem recordRetrieval_busAddr : (recordRetrieval s).busAddr = s.busAddr := rfl
@[simp] theorem recordRetrieval_gainIndex : (recordRetrieval s).gainIndex = s.gainIndex := rfl
@[simp] theorem recordRetrieval_cfgCache : (recordRetrieval s).cfgCache = s.cfgCache := rfl
@[simp] theorem recordRetrieval_cfgValid : (recordRetrieval s).cfgValid = s.cfgValid := rfl
@[simp] theorem recordRetrieval_thrHi : (recordRetrieval s).thrHi = s.thrHi := rfl
@[simp] theorem recordRetrieval_thrHiValid : (recordRetrieval s).thrHiValid = s.thrHiValid := rfl
@[simp] theorem recordRetrieval_thrLo : (recordRetrieval s).thrLo = s.thrLo := rfl
@[simp] theorem recordRetrieval_thrLoValid : (recordRetrieval s).thrLoValid = s.thrLoValid := rfl
@[simp] theorem recordRetrieval_phase : (recordRetrieval s).phase = phaseAfterRetrieval s.phase := rfl
@[simp] theorem recordRetrieval_busy : (recordRetrieval s).busy = s.busy := rfl
@[simp] theorem recordRetrieval_program : (recordRetrieval s).program = s.program := rfl
@[simp] theorem recordRetrieval_answers : (recordRetrieval s).answers = s.answers := rfl
@[simp] theorem recordRetrieval_trace : (recordRetrieval s).trace = s.trace := rfl
@[simp] theorem recordRetrieval_responses : (recordRetrieval s).responses = s.responses := rfl

/-! ### accept: acceptance of a command -/

@[simp] theorem accept_variant (rest : List Word64) : (accept s rest).variant = s.variant := rfl
@[simp] theorem accept_busAddr (rest : List Word64) : (accept s rest).busAddr = s.busAddr := rfl
@[simp] theorem accept_gainIndex (rest : List Word64) : (accept s rest).gainIndex = s.gainIndex := rfl
@[simp] theorem accept_cfgCache (rest : List Word64) : (accept s rest).cfgCache = s.cfgCache := rfl
@[simp] theorem accept_cfgValid (rest : List Word64) : (accept s rest).cfgValid = s.cfgValid := rfl
@[simp] theorem accept_thrHi (rest : List Word64) : (accept s rest).thrHi = s.thrHi := rfl
@[simp] theorem accept_thrHiValid (rest : List Word64) : (accept s rest).thrHiValid = s.thrHiValid := rfl
@[simp] theorem accept_thrLo (rest : List Word64) : (accept s rest).thrLo = s.thrLo := rfl
@[simp] theorem accept_thrLoValid (rest : List Word64) : (accept s rest).thrLoValid = s.thrLoValid := rfl
@[simp] theorem accept_phase (rest : List Word64) : (accept s rest).phase = s.phase := rfl
@[simp] theorem accept_busy (rest : List Word64) : (accept s rest).busy = true := rfl
@[simp] theorem accept_program (rest : List Word64) : (accept s rest).program = rest := rfl
@[simp] theorem accept_answers (rest : List Word64) : (accept s rest).answers = s.answers := rfl
@[simp] theorem accept_trace (rest : List Word64) : (accept s rest).trace = s.trace := rfl
@[simp] theorem accept_responses (rest : List Word64) : (accept s rest).responses = s.responses := rfl

/-! ### present: presentation of a command -/

@[simp] theorem present_variant (w : Word64) : (present s w).variant = s.variant := rfl
@[simp] theorem present_busAddr (w : Word64) : (present s w).busAddr = s.busAddr := rfl
@[simp] theorem present_gainIndex (w : Word64) : (present s w).gainIndex = s.gainIndex := rfl
@[simp] theorem present_cfgCache (w : Word64) : (present s w).cfgCache = s.cfgCache := rfl
@[simp] theorem present_cfgValid (w : Word64) : (present s w).cfgValid = s.cfgValid := rfl
@[simp] theorem present_thrHi (w : Word64) : (present s w).thrHi = s.thrHi := rfl
@[simp] theorem present_thrHiValid (w : Word64) : (present s w).thrHiValid = s.thrHiValid := rfl
@[simp] theorem present_thrLo (w : Word64) : (present s w).thrLo = s.thrLo := rfl
@[simp] theorem present_thrLoValid (w : Word64) : (present s w).thrLoValid = s.thrLoValid := rfl
@[simp] theorem present_phase (w : Word64) : (present s w).phase = s.phase := rfl
@[simp] theorem present_busy (w : Word64) : (present s w).busy = false := rfl
@[simp] theorem present_program (w : Word64) : (present s w).program = w :: s.program := rfl
@[simp] theorem present_answers (w : Word64) : (present s w).answers = s.answers := rfl
@[simp] theorem present_trace (w : Word64) : (present s w).trace = s.trace := rfl
@[simp] theorem present_responses (w : Word64) : (present s w).responses = s.responses := rfl

end Sys2Proof.Machine
end

