-- ==== Sys2Proof/Laws/Ops.lean ====
section
/-! SUPPORT. What the shared operations can do: one lemma each for the environment's answer, an access, the two
accesses with their state writes, the poll, the three writes, and the passing of accesses through a state. -/

namespace Sys2Proof.Machine

/-! ### The environment's answer -/

/-- A lined-up answer is the next one, whatever is asked. -/
theorem nextAnswer_of_cons {s : State} {a : Answer} {rest : List Answer} (h : s.answers = a :: rest) (q : Request) :
    nextAnswer s q = a := by
  simp [nextAnswer, h]

/-- The answer depends on the ports and the bus address alone. -/
theorem nextAnswer_congr {s t : State} (ha : t.answers = s.answers) (ht : t.trace = s.trace)
    (hb : t.busAddr = s.busAddr) (q : Request) : nextAnswer t q = nextAnswer s q := by
  simp [nextAnswer, ha, ht, hb]

@[simp] theorem nextAnswer_recordConfig (s : State) (w : Word16) (q : Request) :
    nextAnswer (recordConfig s w) q = nextAnswer s q := rfl

@[simp] theorem nextAnswer_recordHigh (s : State) (v : Word16) (q : Request) :
    nextAnswer (recordHigh s v) q = nextAnswer s q := rfl

@[simp] theorem nextAnswer_recordLow (s : State) (v : Word16) (q : Request) :
    nextAnswer (recordLow s v) q = nextAnswer s q := rfl

@[simp] theorem nextAnswer_recordRetrieval (s : State) (q : Request) :
    nextAnswer (recordRetrieval s) q = nextAnswer s q := rfl

@[simp] theorem nextAnswer_accept (s : State) (rest : List Word64) (q : Request) :
    nextAnswer (accept s rest) q = nextAnswer s q := rfl

/-! ### One access -/

theorem memRead_of_success {s : State} {reg : DevReg} {v : Word16} (h : nextAnswer s (.read reg) = .success v) :
    memRead s reg = .data v (logAccess s (.didRead reg v)) := by
  simp [memRead, h]

theorem memRead_of_failure {s : State} {reg : DevReg} {e : TransportErr}
    (h : nextAnswer s (.read reg) = .failure e) : memRead s reg = .failed e (logAccess s (.readFailed reg e)) := by
  simp [memRead, h]

theorem memWrite_of_success {s : State} {reg : DevReg} {v d : Word16}
    (h : nextAnswer s (.write reg v) = .success d) : memWrite s reg v = .done (logAccess s (.wrote reg v)) := by
  simp [memWrite, h]

theorem memWrite_of_failure {s : State} {reg : DevReg} {v : Word16} {e : TransportErr}
    (h : nextAnswer s (.write reg v) = .failure e) :
    memWrite s reg v = .failed e (logAccess s (.writeFailed reg v e)) := by
  simp [memWrite, h]

/-- A read followed by `k`: it delivers some data to `k`, or ends the command with the adapter's error. -/
theorem afterRead_cases (s : State) (reg : DevReg) (k : Word16 → State → State) :
    (∃ v, nextAnswer s (.read reg) = .success v ∧
      afterRead (memRead s reg) k = k v (logAccess s (.didRead reg v))) ∨
    (∃ e, nextAnswer s (.read reg) = .failure e ∧
      afterRead (memRead s reg) k = raiseTransport (logAccess s (.readFailed reg e)) e) := by
  cases h : nextAnswer s (.read reg) with
  | success v => exact .inl ⟨v, rfl, by simp [memRead, h, afterRead]⟩
  | failure e => exact .inr ⟨e, rfl, by simp [memRead, h, afterRead]⟩

/-- A write followed by `k`: it succeeds and `k` goes on, or it ends the command with the adapter's error. -/
theorem afterWrite_cases (s : State) (reg : DevReg) (v : Word16) (k : State → State) :
    (∃ d, nextAnswer s (.write reg v) = .success d ∧
      afterWrite (memWrite s reg v) k = k (logAccess s (.wrote reg v))) ∨
    (∃ e, nextAnswer s (.write reg v) = .failure e ∧
      afterWrite (memWrite s reg v) k = raiseTransport (logAccess s (.writeFailed reg v e)) e) := by
  cases h : nextAnswer s (.write reg v) with
  | success d => exact .inl ⟨d, rfl, by simp [memWrite, h, afterWrite]⟩
  | failure e => exact .inr ⟨e, rfl, by simp [memWrite, h, afterWrite]⟩

/-! ### The shared sequences -/

/-- The ConfigWord write: recorded and gone on from, or the command ends unrecorded (R24, R122, R157). -/
theorem writeConfig_cases (s : State) (w : Word16) (k : State → State) :
    (∃ d, nextAnswer s (.write .config w) = .success d ∧
      writeConfig s w k = k (recordConfig (logAccess s (.wrote .config w)) w)) ∨
    (∃ e, nextAnswer s (.write .config w) = .failure e ∧
      writeConfig s w k = raiseTransport (logAccess s (.writeFailed .config w e)) e) :=
  afterWrite_cases s .config w _

/-- The register-0 read: recorded and gone on from, or the command ends unrecorded (R123, R157). -/
theorem readConversion_cases (s : State) (k : Word16 → State → State) :
    (∃ raw, nextAnswer s (.read .conversion) = .success raw ∧
      readConversion s k = k raw (recordRetrieval (logAccess s (.didRead .conversion raw)))) ∨
    (∃ e, nextAnswer s (.read .conversion) = .failure e ∧
      readConversion s k = raiseTransport (logAccess s (.readFailed .conversion e)) e) :=
  afterRead_cases s .conversion _

/-- A poll: bit 15 clear and the command goes on, or bit 15 set and the sample is delivered, or an access fails
(R112, R157, R164). -/
theorem pollCompletion_cases (s : State) :
    (∃ v, nextAnswer s (.read .config) = .success v ∧ completionBit v = false ∧
      pollCompletion s = { logAccess s (.didRead .config v) with busy := true }) ∨
    (∃ v raw, nextAnswer s (.read .config) = .success v ∧ completionBit v = true ∧
      nextAnswer (logAccess s (.didRead .config v)) (.read .conversion) = .success raw ∧
      pollCompletion s = deliverSample
        (recordRetrieval (logAccess (logAccess s (.didRead .config v)) (.didRead .conversion raw))) raw) ∨
    (∃ v e, nextAnswer s (.read .config) = .success v ∧ completionBit v = true ∧
      nextAnswer (logAccess s (.didRead .config v)) (.read .conversion) = .failure e ∧
      pollCompletion s = raiseTransport
        (logAccess (logAccess s (.didRead .config v)) (.readFailed .conversion e)) e) ∨
    (∃ e, nextAnswer s (.read .config) = .failure e ∧
      pollCompletion s = raiseTransport (logAccess s (.readFailed .config e)) e) := by
  unfold pollCompletion
  rcases afterRead_cases s .config (fun v s1 => if completionBit v then
      readConversion s1 fun raw s2 => deliverSample s2 raw else { s1 with busy := true }) with
    ⟨v, hv, h⟩ | ⟨e, he, h⟩
  · rw [h]
    cases hb : completionBit v with
    | false => exact .inl ⟨v, hv, hb, rfl⟩
    | true =>
      rcases readConversion_cases (logAccess s (.didRead .config v)) (fun raw s2 => deliverSample s2 raw) with
        ⟨raw, hr, h2⟩ | ⟨e, he, h2⟩
      · exact .inr (.inl ⟨v, raw, hv, hb, hr, by simp [h2]⟩)
      · exact .inr (.inr (.inl ⟨v, e, hv, hb, he, by simp [h2]⟩))
  · exact .inr (.inr (.inr ⟨e, he, h⟩))

/-- The three writes: all succeed and are recorded, or the command ends at the first, second or third (R115, R117,
R157). -/
theorem startContinuous_cases (s : State) (hi w : Word16) :
    (∃ e, nextAnswer s (.write .highThreshold hi) = .failure e ∧
      startContinuous s hi w = raiseTransport (logAccess s (.writeFailed .highThreshold hi e)) e) ∨
    (∃ d e, nextAnswer s (.write .highThreshold hi) = .success d ∧
      nextAnswer (logAccess s (.wrote .highThreshold hi)) (.write .lowThreshold 0) = .failure e ∧
      startContinuous s hi w = raiseTransport
        (logAccess (recordHigh (logAccess s (.wrote .highThreshold hi)) hi) (.writeFailed .lowThreshold 0 e)) e) ∨
    (∃ d d' e, nextAnswer s (.write .highThreshold hi) = .success d ∧
      nextAnswer (logAccess s (.wrote .highThreshold hi)) (.write .lowThreshold 0) = .success d' ∧
      nextAnswer (logAccess (logAccess s (.wrote .highThreshold hi)) (.wrote .lowThreshold 0)) (.write .config w) =
        .failure e ∧
      startContinuous s hi w = raiseTransport
        (logAccess (recordLow (logAccess (recordHigh (logAccess s (.wrote .highThreshold hi)) hi)
          (.wrote .lowThreshold 0)) 0) (.writeFailed .config w e)) e) ∨
    (∃ d d' d'', nextAnswer s (.write .highThreshold hi) = .success d ∧
      nextAnswer (logAccess s (.wrote .highThreshold hi)) (.write .lowThreshold 0) = .success d' ∧
      nextAnswer (logAccess (logAccess s (.wrote .highThreshold hi)) (.wrote .lowThreshold 0)) (.write .config w) =
        .success d'' ∧
      startContinuous s hi w = finish
        (recordConfig (logAccess (recordLow (logAccess (recordHigh (logAccess s (.wrote .highThreshold hi)) hi)
          (.wrote .lowThreshold 0)) 0) (.wrote .config w)) w) 0) := by
  unfold startContinuous
  rcases afterWrite_cases s .highThreshold hi _ with ⟨d, hd, h1⟩ | ⟨e, he, h1⟩
  · rw [h1]
    rcases afterWrite_cases (recordHigh (logAccess s (.wrote .highThreshold hi)) hi) .lowThreshold 0x0000 _ with
      ⟨d', hd', h2⟩ | ⟨e, he, h2⟩
    · rw [h2]
      rcases writeConfig_cases (recordLow (logAccess (recordHigh (logAccess s (.wrote .highThreshold hi)) hi)
          (.wrote .lowThreshold 0x0000)) 0x0000) w (fun s3 => finish s3 0) with ⟨d'', hd'', h3⟩ | ⟨e, he, h3⟩
      · exact .inr (.inr (.inr ⟨d, d', d'', hd, hd', hd'', h3⟩))
      · exact .inr (.inr (.inl ⟨d, d', e, hd, hd', he, h3⟩))
    · exact .inr (.inl ⟨d, e, hd, he, h2⟩)
  · exact .inl ⟨e, he, h1⟩

end Sys2Proof.Machine

namespace Sys2Proof

open Sys2Proof.Machine

/-! ### Accesses passing through a state -/

@[simp] theorem accessesOf_nil (s : State) : accessesOf s [] = [] := rfl

@[simp] theorem accessesOf_cons (s : State) (e : Event) (es : List Event) :
    accessesOf s (e :: es) = ⟨s.busAddr, e⟩ :: accessesOf s es := rfl

@[simp] theorem accessesOf_append (s : State) (es fs : List Event) :
    accessesOf s (es ++ fs) = accessesOf s es ++ accessesOf s fs := by
  simp [accessesOf]

/-- The accesses of a handle determine the events. -/
theorem accessesOf_injective (s : State) {es fs : List Event} (h : accessesOf s es = accessesOf s fs) : es = fs := by
  have := congrArg (List.map Access.event) h
  simpa [accessesOf, List.map_map, Function.comp_def] using this

@[simp] theorem afterAccesses_nil (s : State) : afterAccesses s [] = s := by
  simp [afterAccesses]

/-- The first access of a list, then the others. -/
theorem afterAccesses_cons (s : State) (e : Event) (es : List Event) :
    afterAccesses s (e :: es) = afterAccesses (logAccess s e) es := by
  simp [afterAccesses, logAccess, accessesOf]

/-- One access is logging it. -/
theorem afterAccesses_single (s : State) (e : Event) : afterAccesses s [e] = logAccess s e := by
  simp [afterAccesses_cons]

/-- Lined-up answers that fit the events make the environment do them: the answers of the events, then any others. -/
theorem environmentDoes_of_answers (s : State) (evs : List Event) (rest : List Answer)
    (h : s.answers = evs.map (fun
      | .wrote _ _ => .success 0
      | .didRead _ v => .success v
      | .writeFailed _ _ e => .failure e
      | .readFailed _ e => .failure e) ++ rest) : EnvironmentDoes s evs := by
  induction evs generalizing s with
  | nil => trivial
  | cons e es ih =>
    have hs : (logAccess s e).answers = _ := congrArg List.tail h
    cases e with
    | wrote reg v => exact ⟨⟨0, nextAnswer_of_cons h _⟩, ih _ hs⟩
    | didRead reg v => exact ⟨nextAnswer_of_cons h _, ih _ hs⟩
    | writeFailed reg v e => exact ⟨nextAnswer_of_cons h _, ih _ hs⟩
    | readFailed reg e => exact ⟨nextAnswer_of_cons h _, ih _ hs⟩

/-- The environment does the first event and then the others. -/
theorem environmentDoes_cons (s : State) (e : Event) (es : List Event) :
    EnvironmentDoes s (e :: es) ↔
      (match e with
        | .wrote reg v => ∃ d, nextAnswer s (.write reg v) = .success d
        | .didRead reg v => nextAnswer s (.read reg) = .success v
        | .writeFailed reg v err => nextAnswer s (.write reg v) = .failure err
        | .readFailed reg err => nextAnswer s (.read reg) = .failure err) ∧
      EnvironmentDoes (logAccess s e) es := by
  cases e <;> exact Iff.rfl

/-- What the environment does depends on the ports and the bus address alone. -/
theorem environmentDoes_congr {evs : List Event} {s t : State} (ha : t.answers = s.answers) (ht : t.trace = s.trace)
    (hb : t.busAddr = s.busAddr) (h : EnvironmentDoes s evs) : EnvironmentDoes t evs := by
  induction evs generalizing s t with
  | nil => trivial
  | cons e es ih =>
    have hn := nextAnswer_congr ha ht hb
    have ih' : EnvironmentDoes (logAccess s e) es → EnvironmentDoes (logAccess t e) es :=
      ih (by simp [logAccess, ha]) (by simp [logAccess, ht, hb]) hb
    cases e <;> simp only [EnvironmentDoes, hn] at h ⊢ <;> exact ⟨h.1, ih' h.2⟩

end Sys2Proof
end

