-- ==== Sys2Proof/Laws/Words.lean ====
section
/-! SUPPORT. The words of the device side: the packed layout against the closed forms of R69, the mode and start
bits of a ConfigWord, samples and responses as numbers. -/

namespace Sys2Proof.Machine

/-- A small index as a natural number. -/
theorem exists_nat_of_inRange {hi : Nat} {i : Int} (h : InRange 0 hi i) : ∃ n : Nat, i = n ∧ n ≤ hi :=
  ⟨i.toNat, (Int.toNat_of_nonneg h.1).symm, by have := h.2; omega⟩

/-- The packed single-shot word is `SS(c, g, r)` (R69). -/
theorem configWord_singleShot {c g r : Int} (hc : InRange 0 7 c) (hg : InRange 0 5 g) (hr : InRange 0 7 r) :
    configWord .singleShot r c g false = ssWord c g r := by
  obtain ⟨c, rfl, hc⟩ := exists_nat_of_inRange (hi := 7) hc
  obtain ⟨g, rfl, hg⟩ := exists_nat_of_inRange (hi := 5) hg
  obtain ⟨r, rfl, hr⟩ := exists_nat_of_inRange (hi := 7) hr
  interval_cases c <;> interval_cases g <;> interval_cases r <;> rfl

/-- The packed continuous word is `CA(c, g, r)` (R69). -/
theorem configWord_continuous {c g r : Int} (hc : InRange 0 7 c) (hg : InRange 0 5 g) (hr : InRange 0 7 r) :
    configWord .continuous r c g true = caWord c g r := by
  obtain ⟨c, rfl, hc⟩ := exists_nat_of_inRange (hi := 7) hc
  obtain ⟨g, rfl, hg⟩ := exists_nat_of_inRange (hi := 5) hg
  obtain ⟨r, rfl, hr⟩ := exists_nat_of_inRange (hi := 7) hr
  interval_cases c <;> interval_cases g <;> interval_cases r <;> rfl

/-- Appending a low field: the high field counts in multiples of the low field's range. -/
theorem toNat_append_add {m n : Nat} (x : BitVec m) (y : BitVec n) :
    (x ++ y).toNat = x.toNat * 2 ^ n + y.toNat := by
  rw [BitVec.toNat_append, Nat.shiftLeft_eq, Nat.mul_comm, Nat.two_pow_add_eq_or_of_lt y.isLt]

/-- A field of a word as a number. -/
theorem toNat_field {n : Nat} (w : BitVec n) (lo len : Nat) :
    (w.extractLsb' lo len).toNat = w.toNat / 2 ^ lo % 2 ^ len := by
  rw [BitVec.extractLsb'_toNat, Nat.shiftRight_eq_div_pow]

/-- The bits of a packed word: each field at its place of R60. -/
theorem packConfig_getLsbD (os : BitVec 1) (chan gain : Int) (mode : BitVec 1) (rate : Int) (cmp : BitVec 5)
    (i : Nat) :
    (packConfig os chan gain mode rate cmp).getLsbD i =
      if i < 5 then cmp.getLsbD i
      else if i < 8 then (BitVec.ofInt 3 rate).getLsbD (i - 5)
      else if i < 9 then mode.getLsbD (i - 8)
      else if i < 12 then (BitVec.ofInt 3 gain).getLsbD (i - 9)
      else if i < 15 then (BitVec.ofInt 3 chan).getLsbD (i - 12)
      else os.getLsbD (i - 15) := by
  change BitVec.getLsbD (w := 1 + 3 + 3 + 1 + 3 + 5)
    (os ++ BitVec.ofInt 3 chan ++ BitVec.ofInt 3 gain ++ mode ++ BitVec.ofInt 3 rate ++ cmp) i = _
  rw [BitVec.getLsbD_append, BitVec.getLsbD_append, BitVec.getLsbD_append, BitVec.getLsbD_append,
    BitVec.getLsbD_append]
  split_ifs <;> first | rfl | (exfalso; omega)

/-- The comparator field stands below the other fields of a packed word. -/
theorem packConfig_cmp (os : BitVec 1) (chan gain : Int) (mode : BitVec 1) (rate : Int) (cmp : BitVec 5) :
    packConfig os chan gain mode rate cmp = packConfig os chan gain mode rate 0 ||| cmp.setWidth 16 := by
  refine BitVec.eq_of_getLsbD_eq fun i hi => ?_
  rw [BitVec.getLsbD_or, packConfig_getLsbD, packConfig_getLsbD, BitVec.getLsbD_setWidth]
  by_cases h : i < 5
  · simp [h, hi]
  · simp [h, BitVec.getLsbD_of_ge cmp i (by omega)]

/-- The packed continuous word of CONVERSION_START is `CE(c, g, r)` (R69). -/
theorem everyWord_eq {c g r : Int} (cmp : CmpEvery) (hc : InRange 0 7 c) (hg : InRange 0 5 g) (hr : InRange 0 7 r) :
    everyWord cmp r c g = ceWord cmp c g r := by
  have h : packConfig 0 c g 0 r 0 = caWord c g r := configWord_continuous hc hg hr
  rw [everyWord, packConfig_cmp, h]
  rfl

/-! ### Mode bit and start bit -/

theorem ssWord_mode (c g r : Int) : (ssWord c g r).getLsbD 8 = true := by
  simp [ssWord]

theorem ssWord_start (c g r : Int) : ssWord c g r ||| 0x8000 = ssWord c g r := by
  refine BitVec.eq_of_getLsbD_eq fun i hi => ?_
  interval_cases i <;> simp [ssWord]

theorem caWord_mode {c g r : Int} (hc : InRange 0 7 c) (hg : InRange 0 5 g) (hr : InRange 0 7 r) :
    (caWord c g r).getLsbD 8 = false := by
  rw [← configWord_continuous hc hg hr]
  rw [configWord, packConfig_getLsbD]
  rfl

theorem ceWord_mode {c g r : Int} (cmp : CmpEvery) (hc : InRange 0 7 c) (hg : InRange 0 5 g) (hr : InRange 0 7 r) :
    (ceWord cmp c g r).getLsbD 8 = false := by
  rw [← everyWord_eq cmp hc hg hr]
  rw [everyWord, packConfig_getLsbD]
  rfl

/-- Asserting the start bit leaves the mode bit. -/
theorem withStartBit_mode (w : Word16) : (withStartBit w).getLsbD 8 = w.getLsbD 8 := by
  simp [withStartBit]

theorem phaseAfterConfigWrite_of_set {w : Word16} (h : w.getLsbD 8 = true) :
    phaseAfterConfigWrite w = .singleShotArmed := by
  simp [phaseAfterConfigWrite, h]

theorem phaseAfterConfigWrite_of_clear {w : Word16} (h : w.getLsbD 8 = false) :
    phaseAfterConfigWrite w = .continuous := by
  rw [phaseAfterConfigWrite, h]
  rfl

/-- The phase after a retrieval, as R123 words it. -/
theorem phaseAfterRetrieval_eq (p : Phase) :
    phaseAfterRetrieval p = if p = .singleShotArmed then .idle else p := by
  cases p <;> rfl

/-! ### Samples and responses -/

/-- The decoded sample is the floor division of R21 and R94. -/
theorem decodeSample_eq (v : Variant) (raw : Word16) : decodeSample v raw = sampleOf v raw := by
  cases v <;> simp [decodeSample, asr, toS16, shift, bitDepth, sampleOf]

/-- An OK response holds its value with zeros above it (R84). -/
theorem okResponse_eq (v : Word16) : okResponse v = valueResponse v := by
  simp only [okResponse, valueResponse, Response.mk.injEq, and_true]
  refine BitVec.eq_of_getLsbD_eq fun i hi => ?_
  change BitVec.getLsbD (w := 4 + 4 + 8 + 16) ((0 : BitVec 4) ++ (0 : BitVec 4) ++ (0 : BitVec 8) ++ v) i = _
  rw [BitVec.getLsbD_append, BitVec.getLsbD_setWidth]
  by_cases h : i < 16
  · simp only [h, if_true, hi, decide_true, Bool.true_and]
  · simp [h, BitVec.getLsbD_of_ge v i (by omega)]

@[simp] theorem okResponse_zero : okResponse 0#16 = ⟨0#32, none⟩ := rfl

/-- A ValidationError response in the numbers of R84 and R151. -/
theorem validationResponse_eq (c : Cause) : validationResponse c = causeResponse c := by
  cases c <;> rfl

@[simp] theorem transportResponse_eq (e : TransportErr) : transportResponse e = ⟨0x20000000, some e⟩ := rfl

@[simp] theorem notPrimedResponse_eq : notPrimedResponse = ⟨0x31000000, none⟩ := rfl

@[simp] theorem illegalResponse_eq : illegalResponse = ⟨0x40000000, none⟩ := rfl

/-- Delivering a sample is the end of the command with that sample's response. -/
theorem deliverSample_eq (s : State) (raw : Word16) :
    deliverSample s raw = respond s (sampleResponse s.variant raw) := by
  simp [deliverSample, finish, okResponse_eq, sampleResponse, toU16, decodeSample_eq]

end Sys2Proof.Machine
end

