-- ==== Sys2Proof/Laws/Commands.lean ====
section
/-! SUPPORT. What each command can do: one inversion lemma per meaning, listing every end it can come to. -/

namespace Sys2Proof.Machine

/-- ENCODE_CONFIG: a word, or the first failing check (R92). -/
theorem execEncodeConfig_cases (mode : ConvMode) (rate chan gain : Int) (cmp : Bool) (s : State) :
    (InRange 0 7 rate ∧ InRange 0 7 chan ∧ InRange 0 5 gain ∧
      execEncodeConfig mode rate chan gain cmp s = .next (finish s (configWord mode rate chan gain cmp))) ∨
    (RateOut rate ∧ execEncodeConfig mode rate chan gain cmp s = .next (raiseValidation s .rateRange)) ∨
    (InRange 0 7 rate ∧ (chan < 0 ∨ chan > 7) ∧
      execEncodeConfig mode rate chan gain cmp s = .next (raiseValidation s .channelRange)) ∨
    (InRange 0 7 rate ∧ InRange 0 7 chan ∧ GainOut gain ∧
      execEncodeConfig mode rate chan gain cmp s = .next (raiseValidation s .gainRange)) := by
  by_cases hr : InRange 0 7 rate
  · by_cases hc : InRange 0 7 chan
    · by_cases hg : InRange 0 5 gain
      · exact .inl ⟨hr, hc, hg, by simp [execEncodeConfig, encodeConfig, hr, hc, hg]⟩
      · exact .inr (.inr (.inr ⟨hr, hc, by unfold InRange at hg; unfold GainOut; omega,
          by simp [execEncodeConfig, encodeConfig, hr, hc, hg]⟩))
    · exact .inr (.inr (.inl ⟨hr, by unfold InRange at hc; omega,
        by simp [execEncodeConfig, encodeConfig, hr, hc]⟩))
  · exact .inr (.inl ⟨by unfold InRange at hr; unfold RateOut; omega,
      by simp [execEncodeConfig, encodeConfig, hr]⟩)

/-- ENCODE_THRESHOLD: the raw threshold, or ThresholdRange (R95). -/
theorem execEncodeThreshold_cases (value : Int) (s : State) :
    (InRange 0 (largestThreshold s.variant) value ∧
      execEncodeThreshold value s = .next (finish s (thresholdWord s.variant value))) ∨
    (ThresholdOut s.variant value ∧ execEncodeThreshold value s = .next (raiseValidation s .thresholdRange)) := by
  rcases encodeThreshold_cases s.variant value with ⟨h, hr⟩ | ⟨h, hr⟩
  · exact .inl ⟨hr, by simp [execEncodeThreshold, h]⟩
  · exact .inr ⟨hr, by simp [execEncodeThreshold, h]⟩

/-- The ends a command with the common prologue comes to before its accesses: `prepare` raised a cause (R110). -/
def PrologueRaises (s : State) (rate ch1 : Int) (ch2 : Option Int) (c : Cause) : Prop :=
  prepare s rate ch1 ch2 = .error c

/-- The operands of a command with the common prologue are valid, and the channel index is `c` (R110). -/
def PrologueAnswers (s : State) (rate ch1 : Int) (ch2 : Option Int) (c : Int) : Prop :=
  InRange 0 7 rate ∧ ((ch1, ch2), c) ∈ channelPairs ∧ InRange 0 5 s.gainIndex

theorem prepare_answers {s : State} {rate ch1 : Int} {ch2 : Option Int} {c : Int}
    (h : PrologueAnswers s rate ch1 ch2 c) : prepare s rate ch1 ch2 = .ok c := prepare_of_valid h.1 h.2.1 h.2.2

/-- The prologue answers or raises. -/
theorem prologue_cases (s : State) (rate ch1 : Int) (ch2 : Option Int) :
    (∃ c, PrologueAnswers s rate ch1 ch2 c) ∨ (∃ c, PrologueRaises s rate ch1 ch2 c) := by
  rcases prepare_cases s rate ch1 ch2 with ⟨c, -, h1, h2, h3⟩ | ⟨h, -⟩ | ⟨h, -⟩ | ⟨h, -⟩
  · exact .inl ⟨c, h1, h2, h3⟩
  all_goals exact .inr ⟨_, h⟩

/-- BLOCKING_READ: a cause, a failed write, or the first poll after the recorded write (R112). -/
theorem execBlockingRead_cases (rate ch1 : Int) (ch2 : Option Int) (s : State) :
    (∃ c, PrologueRaises s rate ch1 ch2 c ∧ execBlockingRead rate ch1 ch2 s = .next (raiseValidation s c)) ∨
    (∃ c e, PrologueAnswers s rate ch1 ch2 c ∧
      nextAnswer s (.write .config (ssWord c s.gainIndex rate)) = .failure e ∧
      execBlockingRead rate ch1 ch2 s =
        .next (raiseTransport (logAccess s (.writeFailed .config (ssWord c s.gainIndex rate) e)) e)) ∨
    (∃ c d, PrologueAnswers s rate ch1 ch2 c ∧
      nextAnswer s (.write .config (ssWord c s.gainIndex rate)) = .success d ∧
      execBlockingRead rate ch1 ch2 s = .next (pollCompletion
        (recordConfig (logAccess s (.wrote .config (ssWord c s.gainIndex rate))) (ssWord c s.gainIndex rate)))) := by
  rcases prologue_cases s rate ch1 ch2 with ⟨c, h⟩ | ⟨c, h⟩
  · have hw := configWord_singleShot (inRange_of_mem_channelPairs h.2.1) h.2.2 h.1
    rcases writeConfig_cases s (ssWord c s.gainIndex rate) pollCompletion with ⟨d, hd, hx⟩ | ⟨e, he, hx⟩
    · exact .inr (.inr ⟨c, d, h, hd, by simp only [execBlockingRead, prepare_answers h, hw, hx]⟩)
    · exact .inr (.inl ⟨c, e, h, he, by simp only [execBlockingRead, prepare_answers h, hw, hx]⟩)
  · refine .inl ⟨c, h, ?_⟩
    unfold PrologueRaises at h
    simp only [execBlockingRead, h]

/-- SET_CONV: a cause, a failed write, or the recorded write (R113). -/
theorem execSetConv_cases (rate ch1 : Int) (ch2 : Option Int) (s : State) :
    (∃ c, PrologueRaises s rate ch1 ch2 c ∧ execSetConv rate ch1 ch2 s = .next (raiseValidation s c)) ∨
    (∃ c e, PrologueAnswers s rate ch1 ch2 c ∧
      nextAnswer s (.write .config (ssWord c s.gainIndex rate)) = .failure e ∧
      execSetConv rate ch1 ch2 s =
        .next (raiseTransport (logAccess s (.writeFailed .config (ssWord c s.gainIndex rate) e)) e)) ∨
    (∃ c d, PrologueAnswers s rate ch1 ch2 c ∧
      nextAnswer s (.write .config (ssWord c s.gainIndex rate)) = .success d ∧
      execSetConv rate ch1 ch2 s = .next (finish
        (recordConfig (logAccess s (.wrote .config (ssWord c s.gainIndex rate))) (ssWord c s.gainIndex rate)) 0)) := by
  rcases prologue_cases s rate ch1 ch2 with ⟨c, h⟩ | ⟨c, h⟩
  · have hw := configWord_singleShot (inRange_of_mem_channelPairs h.2.1) h.2.2 h.1
    rcases writeConfig_cases s (ssWord c s.gainIndex rate) (fun s1 => finish s1 0) with ⟨d, hd, hx⟩ | ⟨e, he, hx⟩
    · exact .inr (.inr ⟨c, d, h, hd, by simp only [execSetConv, prepare_answers h, hw, hx]⟩)
    · exact .inr (.inl ⟨c, e, h, he, by simp only [execSetConv, prepare_answers h, hw, hx]⟩)
  · refine .inl ⟨c, h, ?_⟩
    unfold PrologueRaises at h
    simp only [execSetConv, h]

/-- READ_REV: refused, a failed read, a failed write, or the sample after read and recorded retrigger (R114). -/
theorem execReadRev_cases (s : State) :
    (s.cfgValid = false ∧ execReadRev s = .next (refuseNotPrimed s)) ∨
    (∃ e, s.cfgValid = true ∧ nextAnswer s (.read .conversion) = .failure e ∧
      execReadRev s = .next (raiseTransport (logAccess s (.readFailed .conversion e)) e)) ∨
    (∃ raw e, s.cfgValid = true ∧ nextAnswer s (.read .conversion) = .success raw ∧
      nextAnswer (logAccess s (.didRead .conversion raw)) (.write .config (withStartBit s.cfgCache)) = .failure e ∧
      execReadRev s = .next (raiseTransport (logAccess (recordRetrieval (logAccess s (.didRead .conversion raw)))
        (.writeFailed .config (withStartBit s.cfgCache) e)) e)) ∨
    (∃ raw d, s.cfgValid = true ∧ nextAnswer s (.read .conversion) = .success raw ∧
      nextAnswer (logAccess s (.didRead .conversion raw)) (.write .config (withStartBit s.cfgCache)) = .success d ∧
      execReadRev s = .next (deliverSample
        (recordConfig (logAccess (recordRetrieval (logAccess s (.didRead .conversion raw)))
          (.wrote .config (withStartBit s.cfgCache))) (withStartBit s.cfgCache)) raw)) := by
  cases hv : s.cfgValid with
  | false => exact .inl ⟨rfl, by simp [execReadRev, hv]⟩
  | true =>
    rcases readConversion_cases s (fun raw s1 => writeConfig s1 (withStartBit s1.cfgCache) fun s2 =>
        deliverSample s2 raw) with ⟨raw, hr, h1⟩ | ⟨e, he, h1⟩
    · rcases writeConfig_cases (recordRetrieval (logAccess s (.didRead .conversion raw))) (withStartBit s.cfgCache)
        (fun s2 => deliverSample s2 raw) with ⟨d, hd, h2⟩ | ⟨e, he, h2⟩
      · refine .inr (.inr (.inr ⟨raw, d, rfl, hr, hd, ?_⟩))
        simp only [execReadRev, hv, if_true, h1]
        exact congrArg _ h2
      · refine .inr (.inr (.inl ⟨raw, e, rfl, hr, he, ?_⟩))
        simp only [execReadRev, hv, if_true, h1]
        exact congrArg _ h2
    · exact .inr (.inl ⟨e, rfl, he, by simp only [execReadRev, hv, if_true, h1]⟩)

/-- ALERT_START: a cause of the prologue, ThresholdRange, or the three writes (R115). -/
theorem execAlertStart_cases (rate ch1 : Int) (ch2 thr : Option Int) (s : State) :
    (∃ c, PrologueRaises s rate ch1 ch2 c ∧ execAlertStart rate ch1 ch2 thr s = .next (raiseValidation s c)) ∨
    (∃ c t, PrologueAnswers s rate ch1 ch2 c ∧ thr = some t ∧ ThresholdOut s.variant t ∧
      execAlertStart rate ch1 ch2 thr s = .next (raiseValidation s .thresholdRange)) ∨
    (∃ c, PrologueAnswers s rate ch1 ch2 c ∧
      InRange 0 (largestThreshold s.variant) (thr.getD (largestThreshold s.variant)) ∧
      execAlertStart rate ch1 ch2 thr s = .next (startContinuous s
        (thresholdWord s.variant (thr.getD (largestThreshold s.variant))) (caWord c s.gainIndex rate))) := by
  rcases prologue_cases s rate ch1 ch2 with ⟨c, h⟩ | ⟨c, h⟩
  · have hw := configWord_continuous (inRange_of_mem_channelPairs h.2.1) h.2.2 h.1
    rcases encodeThreshold_cases s.variant (thr.getD (largestThreshold s.variant)) with ⟨ht, hr⟩ | ⟨ht, hr⟩
    · exact .inr (.inr ⟨c, h, hr, by simp only [execAlertStart, prepare_answers h, maxThr_eq, ht, hw]⟩)
    · cases thr with
      | none => exact absurd hr (by cases s.variant <;> decide)
      | some t =>
        exact .inr (.inl ⟨c, t, h, rfl, hr, by simp only [execAlertStart, prepare_answers h, maxThr_eq, ht]⟩)
  · refine .inl ⟨c, h, ?_⟩
    unfold PrologueRaises at h
    simp only [execAlertStart, h]

/-- ALERT_READ: a failed read, or the sample after the recorded read (R116). -/
theorem execAlertRead_cases (s : State) :
    (∃ e, nextAnswer s (.read .conversion) = .failure e ∧
      execAlertRead s = .next (raiseTransport (logAccess s (.readFailed .conversion e)) e)) ∨
    (∃ raw, nextAnswer s (.read .conversion) = .success raw ∧
      execAlertRead s =
        .next (deliverSample (recordRetrieval (logAccess s (.didRead .conversion raw))) raw)) := by
  rcases readConversion_cases s (fun raw s1 => deliverSample s1 raw) with ⟨raw, hr, h⟩ | ⟨e, he, h⟩
  · exact .inr ⟨raw, hr, by simp only [execAlertRead, h]⟩
  · exact .inl ⟨e, he, by simp only [execAlertRead, h]⟩

/-- CONVERSION_START: a cause of the prologue, or the three writes (R117). -/
theorem execConversionStart_cases (rate ch1 : Int) (ch2 : Option Int) (s : State) :
    (∃ c, PrologueRaises s rate ch1 ch2 c ∧ execConversionStart rate ch1 ch2 s = .next (raiseValidation s c)) ∨
    (∃ c, PrologueAnswers s rate ch1 ch2 c ∧
      execConversionStart rate ch1 ch2 s = .next (startContinuous s (Config.convstartHiRaw s.variant)
        (ceWord Config.cmpEvery c s.gainIndex rate))) := by
  rcases prologue_cases s rate ch1 ch2 with ⟨c, h⟩ | ⟨c, h⟩
  · have hw := everyWord_eq Config.cmpEvery (inRange_of_mem_channelPairs h.2.1) h.2.2 h.1
    exact .inr ⟨c, h, by simp only [execConversionStart, conversionStartWith, prepare_answers h, hw]⟩
  · refine .inl ⟨c, h, ?_⟩
    unfold PrologueRaises at h
    simp only [execConversionStart, conversionStartWith, h]

/-- WRITE_REGISTER: RegisterIndexRange, a failed write, or the write (R140). -/
theorem execWriteRegister_cases (idx : Int) (value : Word16) (s : State) :
    (IndexOut idx ∧ execWriteRegister idx value s = .next (raiseValidation s .registerIndexRange)) ∨
    (∃ reg e, idx = registerNumber reg ∧ nextAnswer s (.write reg value) = .failure e ∧
      execWriteRegister idx value s = .next (raiseTransport (logAccess s (.writeFailed reg value e)) e)) ∨
    (∃ reg d, idx = registerNumber reg ∧ nextAnswer s (.write reg value) = .success d ∧
      execWriteRegister idx value s = .next (finish (logAccess s (.wrote reg value)) 0)) := by
  rcases registerOf_cases idx with ⟨reg, h, hi⟩ | ⟨h, hi⟩
  · rcases afterWrite_cases s reg value (fun s1 => finish s1 0) with ⟨d, hd, hx⟩ | ⟨e, he, hx⟩
    · exact .inr (.inr ⟨reg, d, by rw [hi]; cases reg <;> rfl, hd, by simp only [execWriteRegister, h, hx]⟩)
    · exact .inr (.inl ⟨reg, e, by rw [hi]; cases reg <;> rfl, he, by simp only [execWriteRegister, h, hx]⟩)
  · exact .inl ⟨hi, by simp only [execWriteRegister, h]⟩

/-- READ_REGISTER: RegisterIndexRange, a failed read, or the raw value (R141). -/
theorem execReadRegister_cases (idx : Int) (s : State) :
    (IndexOut idx ∧ execReadRegister idx s = .next (raiseValidation s .registerIndexRange)) ∨
    (∃ reg e, idx = registerNumber reg ∧ nextAnswer s (.read reg) = .failure e ∧
      execReadRegister idx s = .next (raiseTransport (logAccess s (.readFailed reg e)) e)) ∨
    (∃ reg v, idx = registerNumber reg ∧ nextAnswer s (.read reg) = .success v ∧
      execReadRegister idx s = .next (finish (logAccess s (.didRead reg v)) v)) := by
  rcases registerOf_cases idx with ⟨reg, h, hi⟩ | ⟨h, hi⟩
  · rcases afterRead_cases s reg (fun v s1 => finish s1 v) with ⟨v, hv, hx⟩ | ⟨e, he, hx⟩
    · exact .inr (.inr ⟨reg, v, by rw [hi]; cases reg <;> rfl, hv, by simp only [execReadRegister, h, hx]⟩)
    · exact .inr (.inl ⟨reg, e, by rw [hi]; cases reg <;> rfl, he, by simp only [execReadRegister, h, hx]⟩)
  · exact .inl ⟨hi, by simp only [execReadRegister, h]⟩

end Sys2Proof.Machine
end

