-- ==== Sys2Proof/Laws/Step.lean ====
section
/-! SUPPORT. What a step can do, and what each kind of fetch means. -/

namespace Sys2Proof.Machine

/-- A step waits, polls, answers an illegal word, or runs the command on the port; nothing else (R27, R74, R83). -/
theorem step_cases (s : State) :
    (s.busy = true ∧ step s = .next (pollCompletion s)) ∨
    (s.busy = false ∧ s.program = [] ∧ step s = .next s) ∨
    (∃ w rest e, s.busy = false ∧ s.program = w :: rest ∧ decode w = .error e ∧
      step s = .next (rejectIllegal (accept s rest))) ∨
    (∃ w rest i, s.busy = false ∧ s.program = w :: rest ∧ decode w = .ok i ∧ step s = exec i (accept s rest)) := by
  cases hb : s.busy with
  | true => exact .inl ⟨rfl, by simp [step, fetch, hb]⟩
  | false =>
    cases hp : s.program with
    | nil => exact .inr (.inl ⟨rfl, rfl, by simp [step, fetch, hb, hp]⟩)
    | cons w rest =>
      cases hd : decode w with
      | error e => exact .inr (.inr (.inl ⟨w, rest, e, rfl, rfl, hd, by simp [step, fetch, hb, hp, hd]⟩))
      | ok i => exact .inr (.inr (.inr ⟨w, rest, i, rfl, rfl, hd, by simp [step, fetch, hb, hp, hd]⟩))

/-- The step that runs a command. -/
theorem step_of_decoded {s : State} {w : Word64} {rest : List Word64} {i : Instr} (hb : s.busy = false)
    (hp : s.program = w :: rest) (hd : decode w = .ok i) : step s = exec i (accept s rest) := by
  simp [step, fetch, hb, hp, hd]

/-- The step of a busy block. -/
theorem step_of_busy {s : State} (hb : s.busy = true) : step s = .next (pollCompletion s) := by
  simp [step, fetch, hb]

/-- A run takes its first step and goes on. -/
theorem core_run_succ (M : Host.Core) (k : Nat) {s t : M.State} (h : M.step s = .next t) :
    M.run (k + 1) s = M.run k t := by
  simp [Host.Core.run, h]

/-- The same for this block's `step`. -/
theorem run_succ (k : Nat) {s t : State} (h : step s = .next t) :
    Host.Core.run core (k + 1) s = Host.Core.run core k t :=
  core_run_succ core k h

end Sys2Proof.Machine
end

