-- ==== Sys2Proof/Laws/Ends.lean ====
section
/-! SUPPORT. Every end a command or a step can come to, as one inductive relation: what `exec` and `step` can do, said
once. A proof about all commands takes `exec_ends` and goes by cases on it. -/

namespace Sys2Proof.Machine

/-- The ends of a poll (R112, R157, R164). -/
inductive PollEnds : State → State → Prop where
  | goesOn (s : State) (v : Word16) (hv : nextAnswer s (.read .config) = .success v) (hb : v.getLsbD 15 = false) :
    PollEnds s { logAccess s (.didRead .config v) with busy := true }
  | sample (s : State) (v raw : Word16) (hv : nextAnswer s (.read .config) = .success v) (hb : v.getLsbD 15 = true)
    (hr : nextAnswer (logAccess s (.didRead .config v)) (.read .conversion) = .success raw) :
    PollEnds s (respond (recordRetrieval
      (logAccess (logAccess s (.didRead .config v)) (.didRead .conversion raw))) (sampleResponse s.variant raw))
  | readFails (s : State) (v : Word16) (e : TransportErr) (hv : nextAnswer s (.read .config) = .success v)
    (hb : v.getLsbD 15 = true)
    (hr : nextAnswer (logAccess s (.didRead .config v)) (.read .conversion) = .failure e) :
    PollEnds s (respond (logAccess (logAccess s (.didRead .config v)) (.readFailed .conversion e))
      ⟨0x20000000, some e⟩)
  | pollFails (s : State) (e : TransportErr) (hv : nextAnswer s (.read .config) = .failure e) :
    PollEnds s (respond (logAccess s (.readFailed .config e)) ⟨0x20000000, some e⟩)

/-- A poll comes to one of its ends. -/
theorem pollCompletion_ends (s : State) : PollEnds s (pollCompletion s) := by
  rcases pollCompletion_cases s with ⟨v, hv, hb, h⟩ | ⟨v, raw, hv, hb, hr, h⟩ | ⟨v, e, hv, hb, hr, h⟩ | ⟨e, hv, h⟩
  · rw [h]
    exact .goesOn s v hv hb
  · rw [h, deliverSample_eq]
    exact .sample s v raw hv hb hr
  · rw [h]
    exact .readFails s v e hv hb hr
  · rw [h]
    exact .pollFails s e hv

/-- The ends of the three writes (R115, R117, R157). -/
inductive StartEnds (hi w : Word16) : State → State → Prop where
  | highFails (s : State) (e : TransportErr) (h1 : nextAnswer s (.write .highThreshold hi) = .failure e) :
    StartEnds hi w s (respond (logAccess s (.writeFailed .highThreshold hi e)) ⟨0x20000000, some e⟩)
  | lowFails (s : State) (d : Word16) (e : TransportErr)
    (h1 : nextAnswer s (.write .highThreshold hi) = .success d)
    (h2 : nextAnswer (logAccess s (.wrote .highThreshold hi)) (.write .lowThreshold 0) = .failure e) :
    StartEnds hi w s (respond (logAccess (recordHigh (logAccess s (.wrote .highThreshold hi)) hi)
      (.writeFailed .lowThreshold 0 e)) ⟨0x20000000, some e⟩)
  | configFails (s : State) (d d' : Word16) (e : TransportErr)
    (h1 : nextAnswer s (.write .highThreshold hi) = .success d)
    (h2 : nextAnswer (logAccess s (.wrote .highThreshold hi)) (.write .lowThreshold 0) = .success d')
    (h3 : nextAnswer (logAccess (logAccess s (.wrote .highThreshold hi)) (.wrote .lowThreshold 0))
      (.write .config w) = .failure e) :
    StartEnds hi w s (respond (logAccess (recordLow (logAccess (recordHigh
      (logAccess s (.wrote .highThreshold hi)) hi) (.wrote .lowThreshold 0)) 0) (.writeFailed .config w e))
      ⟨0x20000000, some e⟩)
  | started (s : State) (d d' d'' : Word16) (h1 : nextAnswer s (.write .highThreshold hi) = .success d)
    (h2 : nextAnswer (logAccess s (.wrote .highThreshold hi)) (.write .lowThreshold 0) = .success d')
    (h3 : nextAnswer (logAccess (logAccess s (.wrote .highThreshold hi)) (.wrote .lowThreshold 0))
      (.write .config w) = .success d'') :
    StartEnds hi w s (respond (recordConfig (logAccess (recordLow (logAccess (recordHigh
      (logAccess s (.wrote .highThreshold hi)) hi) (.wrote .lowThreshold 0)) 0) (.wrote .config w)) w) ⟨0, none⟩)

/-- The three writes come to one of their ends. -/
theorem startContinuous_ends (s : State) (hi w : Word16) : StartEnds hi w s (startContinuous s hi w) := by
  rcases startContinuous_cases s hi w with ⟨e, h1, h⟩ | ⟨d, e, h1, h2, h⟩ | ⟨d, d', e, h1, h2, h3, h⟩ |
    ⟨d, d', d'', h1, h2, h3, h⟩
  · rw [h]
    exact .highFails s e h1
  · rw [h]
    exact .lowFails s d e h1 h2
  · rw [h]
    exact .configFails s d d' e h1 h2 h3
  · rw [h]
    exact .started s d d' d'' h1 h2 h3

/-- `prepare` raises the first failing check of R151 in the priority of R154. -/
theorem prepare_raises_iff {s : State} {rate ch1 : Int} {ch2 : Option Int} {c : Cause} :
    prepare s rate ch1 ch2 = .error c ↔ firstCause (commonCauses s rate ch1 ch2) = some c := by
  have pairs : (PairOut ch1 ch2) ↔ ∀ k, ((ch1, ch2), k) ∉ channelPairs := by
    simp [PairOut]
  rcases prepare_cases s rate ch1 ch2 with ⟨k, h, h1, h2, h3⟩ | ⟨h, h1⟩ | ⟨h, h1, h2⟩ | ⟨h, h1, ⟨k, h2⟩, h3⟩
  · have n1 : ¬ RateOut rate := by unfold InRange at h1; unfold RateOut; omega
    have n2 : ¬ PairOut ch1 ch2 := fun hp => pairs.mp hp k h2
    have n3 : ¬ GainOut s.gainIndex := by unfold InRange at h3; unfold GainOut; omega
    simp [h, commonCauses, firstCause, n1, n2, n3]
  · simp [h, commonCauses, firstCause, h1]
  · have n1 : ¬ RateOut rate := by unfold InRange at h1; unfold RateOut; omega
    have n2 : PairOut ch1 ch2 := pairs.mpr fun k hk => by simp [chanOf_eq_ok.mpr hk] at h2
    simp [h, commonCauses, firstCause, n1, n2]
  · have n1 : ¬ RateOut rate := by unfold InRange at h1; unfold RateOut; omega
    have n2 : ¬ PairOut ch1 ch2 := fun hp => pairs.mp hp k h2
    simp [h, commonCauses, firstCause, n1, n2, h3]

/-- Valid prologue operands fail no check of R151. -/
theorem firstCause_of_answers {s : State} {rate ch1 : Int} {ch2 : Option Int} {c : Int}
    (h : PrologueAnswers s rate ch1 ch2 c) : firstCause (commonCauses s rate ch1 ch2) = none := by
  cases hf : firstCause (commonCauses s rate ch1 ch2) with
  | none => rfl
  | some k => exact absurd (prepare_raises_iff.mpr hf) (by simp [prepare_answers h])

/-- The ends of a command. -/
inductive CommandEnds : Instr → State → State → Prop where
  /-- A codec command with valid operands (R92 to R95). -/
  | codec (i : Instr) (s : State) (v : Word16) (hi : isCodec i = true) (hc : firstCause (causesOf s i) = none) :
    CommandEnds i s (respond s (valueResponse v))
  /-- Any command with an invalid operand (R152). -/
  | invalid (i : Instr) (s : State) (c : Cause) (hc : firstCause (causesOf s i) = some c) :
    CommandEnds i s (respond s (causeResponse c))
  | blockingWriteFails (s : State) (rate ch1 : Int) (ch2 : Option Int) (c : Int) (e : TransportErr)
    (hp : PrologueAnswers s rate ch1 ch2 c)
    (h1 : nextAnswer s (.write .config (ssWord c s.gainIndex rate)) = .failure e) :
    CommandEnds (.blockingRead rate ch1 ch2) s
      (respond (logAccess s (.writeFailed .config (ssWord c s.gainIndex rate) e)) ⟨0x20000000, some e⟩)
  | blockingPolls (s t : State) (rate ch1 : Int) (ch2 : Option Int) (c : Int) (d : Word16)
    (hp : PrologueAnswers s rate ch1 ch2 c)
    (h1 : nextAnswer s (.write .config (ssWord c s.gainIndex rate)) = .success d)
    (h2 : PollEnds (recordConfig (logAccess s (.wrote .config (ssWord c s.gainIndex rate)))
      (ssWord c s.gainIndex rate)) t) :
    CommandEnds (.blockingRead rate ch1 ch2) s t
  | setConvFails (s : State) (rate ch1 : Int) (ch2 : Option Int) (c : Int) (e : TransportErr)
    (hp : PrologueAnswers s rate ch1 ch2 c)
    (h1 : nextAnswer s (.write .config (ssWord c s.gainIndex rate)) = .failure e) :
    CommandEnds (.setConv rate ch1 ch2) s
      (respond (logAccess s (.writeFailed .config (ssWord c s.gainIndex rate) e)) ⟨0x20000000, some e⟩)
  | setConv (s : State) (rate ch1 : Int) (ch2 : Option Int) (c : Int) (d : Word16)
    (hp : PrologueAnswers s rate ch1 ch2 c)
    (h1 : nextAnswer s (.write .config (ssWord c s.gainIndex rate)) = .success d) :
    CommandEnds (.setConv rate ch1 ch2) s
      (respond (recordConfig (logAccess s (.wrote .config (ssWord c s.gainIndex rate)))
        (ssWord c s.gainIndex rate)) ⟨0, none⟩)
  | notPrimed (s : State) (hv : s.cfgValid = false) :
    CommandEnds .readRev s (respond s ⟨0x31000000, none⟩)
  | readRevReadFails (s : State) (e : TransportErr) (hv : s.cfgValid = true)
    (h1 : nextAnswer s (.read .conversion) = .failure e) :
    CommandEnds .readRev s (respond (logAccess s (.readFailed .conversion e)) ⟨0x20000000, some e⟩)
  | readRevWriteFails (s : State) (raw : Word16) (e : TransportErr) (hv : s.cfgValid = true)
    (h1 : nextAnswer s (.read .conversion) = .success raw)
    (h2 : nextAnswer (logAccess s (.didRead .conversion raw)) (.write .config (s.cfgCache ||| 0x8000)) =
      .failure e) :
    CommandEnds .readRev s (respond (logAccess (recordRetrieval (logAccess s (.didRead .conversion raw)))
      (.writeFailed .config (s.cfgCache ||| 0x8000) e)) ⟨0x20000000, some e⟩)
  | readRev (s : State) (raw d : Word16) (hv : s.cfgValid = true)
    (h1 : nextAnswer s (.read .conversion) = .success raw)
    (h2 : nextAnswer (logAccess s (.didRead .conversion raw)) (.write .config (s.cfgCache ||| 0x8000)) =
      .success d) :
    CommandEnds .readRev s (respond (recordConfig (logAccess (recordRetrieval
      (logAccess s (.didRead .conversion raw))) (.wrote .config (s.cfgCache ||| 0x8000))) (s.cfgCache ||| 0x8000))
      (sampleResponse s.variant raw))
  | alertStart (s t : State) (rate ch1 : Int) (ch2 thr : Option Int) (c : Int)
    (hp : PrologueAnswers s rate ch1 ch2 c)
    (hk : InRange 0 (largestThreshold s.variant) (thr.getD (largestThreshold s.variant)))
    (h1 : StartEnds (thresholdWord s.variant (thr.getD (largestThreshold s.variant)))
      (caWord c s.gainIndex rate) s t) :
    CommandEnds (.alertStart rate ch1 ch2 thr) s t
  | alertReadFails (s : State) (e : TransportErr) (h1 : nextAnswer s (.read .conversion) = .failure e) :
    CommandEnds .alertRead s (respond (logAccess s (.readFailed .conversion e)) ⟨0x20000000, some e⟩)
  | alertRead (s : State) (raw : Word16) (h1 : nextAnswer s (.read .conversion) = .success raw) :
    CommandEnds .alertRead s (respond (recordRetrieval (logAccess s (.didRead .conversion raw)))
      (sampleResponse s.variant raw))
  | conversionStart (s t : State) (rate ch1 : Int) (ch2 : Option Int) (c : Int)
    (hp : PrologueAnswers s rate ch1 ch2 c)
    (h1 : StartEnds (Config.convstartHiRaw s.variant) (ceWord Config.cmpEvery c s.gainIndex rate) s t) :
    CommandEnds (.conversionStart rate ch1 ch2) s t
  | writeRegisterFails (s : State) (reg : DevReg) (v : Word16) (e : TransportErr)
    (h1 : nextAnswer s (.write reg v) = .failure e) :
    CommandEnds (.writeRegister (registerNumber reg) v) s
      (respond (logAccess s (.writeFailed reg v e)) ⟨0x20000000, some e⟩)
  | writeRegister (s : State) (reg : DevReg) (v d : Word16) (h1 : nextAnswer s (.write reg v) = .success d) :
    CommandEnds (.writeRegister (registerNumber reg) v) s (respond (logAccess s (.wrote reg v)) ⟨0, none⟩)
  | readRegisterFails (s : State) (reg : DevReg) (e : TransportErr) (h1 : nextAnswer s (.read reg) = .failure e) :
    CommandEnds (.readRegister (registerNumber reg)) s
      (respond (logAccess s (.readFailed reg e)) ⟨0x20000000, some e⟩)
  | readRegister (s : State) (reg : DevReg) (v : Word16) (h1 : nextAnswer s (.read reg) = .success v) :
    CommandEnds (.readRegister (registerNumber reg)) s (respond (logAccess s (.didRead reg v)) (valueResponse v))

/-- A command answers a next state, which is one of its ends. -/
theorem exec_ends (i : Instr) (s : State) : ∃ t, exec i s = .next t ∧ CommandEnds i s t := by
  cases i with
  | encodeConfig mode rate chan gain cmp =>
    rcases execEncodeConfig_cases mode rate chan gain cmp s with ⟨h1, h2, h3, h⟩ | ⟨h1, h⟩ | ⟨h1, h2, h⟩ |
      ⟨h1, h2, h3, h⟩ <;> refine ⟨_, h, ?_⟩
    · rw [finish, okResponse_eq]
      refine .codec _ _ _ rfl ?_
      have n1 : ¬ RateOut rate := by unfold InRange at h1; unfold RateOut; omega
      have n2 : ¬ (chan < 0 ∨ chan > 7) := by unfold InRange at h2; omega
      have n3 : ¬ GainOut gain := by unfold InRange at h3; unfold GainOut; omega
      simp only [causesOf, firstCause, n1, n2, n3, decide_false, Bool.false_eq_true, if_false]
    all_goals
      rw [raiseValidation, validationResponse_eq]
      refine .invalid _ _ _ ?_
    · simp only [causesOf, firstCause, h1, decide_true, if_true]
    · have n1 : ¬ RateOut rate := by unfold InRange at h1; unfold RateOut; omega
      simp only [causesOf, firstCause, n1, h2, decide_true, decide_false, Bool.false_eq_true, if_false, if_true]
    · have n1 : ¬ RateOut rate := by unfold InRange at h1; unfold RateOut; omega
      have n2 : ¬ (chan < 0 ∨ chan > 7) := by unfold InRange at h2; omega
      simp only [causesOf, firstCause, n1, n2, h3, decide_true, decide_false, Bool.false_eq_true, if_false, if_true]
  | decodeConfig raw =>
    refine ⟨_, rfl, ?_⟩
    rw [finish, okResponse_eq]
    exact .codec _ _ _ rfl rfl
  | decodeSample raw =>
    refine ⟨_, rfl, ?_⟩
    rw [deliverSample_eq]
    exact .codec _ _ _ rfl rfl
  | encodeThreshold value =>
    rcases execEncodeThreshold_cases value s with ⟨h1, h⟩ | ⟨h1, h⟩ <;> refine ⟨_, h, ?_⟩
    · rw [finish, okResponse_eq]
      refine .codec _ _ _ rfl ?_
      have n1 : ¬ ThresholdOut s.variant value := by
        cases hv : s.variant <;> simp [hv, InRange, largestThreshold] at h1 <;> simp [ThresholdOut] <;> omega
      simp only [causesOf, firstCause, n1, decide_false, Bool.false_eq_true, if_false]
    · rw [raiseValidation, validationResponse_eq]
      refine .invalid _ _ _ ?_
      simp only [causesOf, firstCause, h1, decide_true, if_true]
  | blockingRead rate ch1 ch2 =>
    rcases execBlockingRead_cases rate ch1 ch2 s with ⟨c, hc, h⟩ | ⟨c, e, hc, he, h⟩ | ⟨c, d, hc, hd, h⟩ <;>
      refine ⟨_, h, ?_⟩
    · rw [raiseValidation, validationResponse_eq]
      exact .invalid _ _ _ (prepare_raises_iff.mp hc)
    · exact .blockingWriteFails s rate ch1 ch2 c e hc he
    · exact .blockingPolls s _ rate ch1 ch2 c d hc hd (pollCompletion_ends _)
  | setConv rate ch1 ch2 =>
    rcases execSetConv_cases rate ch1 ch2 s with ⟨c, hc, h⟩ | ⟨c, e, hc, he, h⟩ | ⟨c, d, hc, hd, h⟩ <;>
      refine ⟨_, h, ?_⟩
    · rw [raiseValidation, validationResponse_eq]
      exact .invalid _ _ _ (prepare_raises_iff.mp hc)
    · exact .setConvFails s rate ch1 ch2 c e hc he
    · exact .setConv s rate ch1 ch2 c d hc hd
  | readRev =>
    rcases execReadRev_cases s with ⟨hv, h⟩ | ⟨e, hv, h1, h⟩ | ⟨raw, e, hv, h1, h2, h⟩ | ⟨raw, d, hv, h1, h2, h⟩ <;>
      refine ⟨_, h, ?_⟩
    · exact .notPrimed s hv
    · exact .readRevReadFails s e hv h1
    · exact .readRevWriteFails s raw e hv h1 h2
    · rw [deliverSample_eq]
      exact .readRev s raw d hv h1 h2
  | alertStart rate ch1 ch2 thr =>
    rcases execAlertStart_cases rate ch1 ch2 thr s with ⟨c, hc, h⟩ | ⟨c, t, hc, rfl, ht, h⟩ | ⟨c, hc, hk, h⟩ <;>
      refine ⟨_, h, ?_⟩
    · rw [raiseValidation, validationResponse_eq]
      refine .invalid _ _ _ ?_
      have := prepare_raises_iff.mp hc
      simp only [commonCauses, firstCause] at this
      simp only [causesOf, commonCauses, List.cons_append, List.nil_append, firstCause]
      split_ifs at this ⊢ <;> simp_all
    · rw [raiseValidation, validationResponse_eq]
      refine .invalid _ _ _ ?_
      have := firstCause_of_answers hc
      simp only [commonCauses, firstCause] at this
      simp only [causesOf, commonCauses, List.cons_append, List.nil_append, firstCause]
      split_ifs at this ⊢ <;> simp_all
    · exact .alertStart s _ rate ch1 ch2 thr c hc hk (startContinuous_ends _ _ _)
  | alertRead =>
    rcases execAlertRead_cases s with ⟨e, h1, h⟩ | ⟨raw, h1, h⟩ <;> refine ⟨_, h, ?_⟩
    · exact .alertReadFails s e h1
    · rw [deliverSample_eq]
      exact .alertRead s raw h1
  | conversionStart rate ch1 ch2 =>
    rcases execConversionStart_cases rate ch1 ch2 s with ⟨c, hc, h⟩ | ⟨c, hc, h⟩ <;> refine ⟨_, h, ?_⟩
    · rw [raiseValidation, validationResponse_eq]
      exact .invalid _ _ _ (prepare_raises_iff.mp hc)
    · exact .conversionStart s _ rate ch1 ch2 c hc (startContinuous_ends _ _ _)
  | writeRegister idx value =>
    rcases execWriteRegister_cases idx value s with ⟨h1, h⟩ | ⟨reg, e, rfl, h1, h⟩ | ⟨reg, d, rfl, h1, h⟩ <;>
      refine ⟨_, h, ?_⟩
    · rw [raiseValidation, validationResponse_eq]
      refine .invalid _ _ _ ?_
      simp only [causesOf, firstCause, h1, decide_true, if_true]
    · exact .writeRegisterFails s reg value e h1
    · exact .writeRegister s reg value d h1
  | readRegister idx =>
    rcases execReadRegister_cases idx s with ⟨h1, h⟩ | ⟨reg, e, rfl, h1, h⟩ | ⟨reg, v, rfl, h1, h⟩ <;>
      refine ⟨_, h, ?_⟩
    · rw [raiseValidation, validationResponse_eq]
      refine .invalid _ _ _ ?_
      simp only [causesOf, firstCause, h1, decide_true, if_true]
    · exact .readRegisterFails s reg e h1
    · rw [finish, okResponse_eq]
      exact .readRegister s reg v h1

/-- The end of a command whose next state is known. -/
theorem ends_of_exec {i : Instr} {s t : State} (h : exec i s = .next t) : CommandEnds i s t := by
  obtain ⟨t', h', he⟩ := exec_ends i s
  rw [h] at h'
  cases h'
  exact he

end Sys2Proof.Machine
end

