-- ==== Sys2Proof/Laws/PerInstr.lean ====
section
/-! SUPPORT. Per command: its word matches its row of spec/opcode_table.json, whatever the operands. -/

namespace Sys2Proof.Laws.TableRow

/-- The `mask` and `match` columns of a command's row of spec/opcode_table.json. -/
def row : Instr → Word64 × Word64
  | .encodeConfig .. => (0xF0000003FFFFFFFF, 0x1000000000000000)
  | .decodeConfig .. => (0xFFFFFFFFFFFF0000, 0x2000000000000000)
  | .decodeSample .. => (0xFFFFFFFFFFFF0000, 0x3000000000000000)
  | .encodeThreshold .. => (0xFFFFFFFF00000000, 0x4000000000000000)
  | .blockingRead .. => (0xF0000007FFFFFFFF, 0x5000000000000000)
  | .setConv .. => (0xF0000007FFFFFFFF, 0x6000000000000000)
  | .readRev => (0xFFFFFFFFFFFFFFFF, 0x7000000000000000)
  | .alertStart .. => (0xF000000300000000, 0x8000000000000000)
  | .alertRead => (0xFFFFFFFFFFFFFFFF, 0x9000000000000000)
  | .conversionStart .. => (0xF0000007FFFFFFFF, 0xA000000000000000)
  | .writeRegister .. => (0xF00FFFFFFFFF0000, 0xB000000000000000)
  | .readRegister .. => (0xF00FFFFFFFFFFFFF, 0xC000000000000000)

/-- The command's word matches its row (R75 to R81). -/
def Statement (i : Instr) : Prop := encode i &&& (row i).1 = (row i).2

/-- A word of format E (R76). -/
theorem formatE (a b c : BitVec 8) (m k : BitVec 1) :
    (((1 : BitVec 4) ++ a ++ b ++ c ++ m ++ k ++ (0 : BitVec 34)) : Word64) &&& 0xF0000003FFFFFFFF =
      0x1000000000000000 := by
  refine BitVec.eq_of_getLsbD_eq fun i hi => ?_
  rw [BitVec.getLsbD_and]
  simp only [BitVec.getLsbD_append]
  interval_cases i <;> simp

/-- A word of format V16 (R77). -/
theorem formatV16 (op : BitVec 4) (v : BitVec 16) :
    ((op ++ (0 : BitVec 44) ++ v) : Word64) &&& 0xFFFFFFFFFFFF0000 = op ++ (0 : BitVec 60) := by
  refine BitVec.eq_of_getLsbD_eq fun i hi => ?_
  rw [BitVec.getLsbD_and]
  simp only [BitVec.getLsbD_append]
  interval_cases i <;> simp

/-- A word of format V32 (R78). -/
theorem formatV32 (op : BitVec 4) (v : BitVec 32) :
    ((op ++ (0 : BitVec 28) ++ v) : Word64) &&& 0xFFFFFFFF00000000 = op ++ (0 : BitVec 60) := by
  refine BitVec.eq_of_getLsbD_eq fun i hi => ?_
  rw [BitVec.getLsbD_and]
  simp only [BitVec.getLsbD_append]
  interval_cases i <;> simp

/-- A word of format Q without threshold (R79). -/
theorem formatQ (op : BitVec 4) (a b c : BitVec 8) (p : BitVec 1) :
    ((op ++ a ++ b ++ c ++ p ++ (0 : BitVec 1) ++ (0 : BitVec 2) ++ (0 : BitVec 32)) : Word64) &&& 0xF0000007FFFFFFFF = op ++ (0 : BitVec 60) := by
  refine BitVec.eq_of_getLsbD_eq fun i hi => ?_
  rw [BitVec.getLsbD_and]
  simp only [BitVec.getLsbD_append]
  interval_cases i <;> simp

/-- A word of format Q with threshold (R79). -/
theorem formatQThreshold (op : BitVec 4) (a b c : BitVec 8) (p q : BitVec 1) (t : BitVec 32) :
    ((op ++ a ++ b ++ c ++ p ++ q ++ (0 : BitVec 2) ++ t) : Word64) &&& 0xF000000300000000 = op ++ (0 : BitVec 60) := by
  refine BitVec.eq_of_getLsbD_eq fun i hi => ?_
  rw [BitVec.getLsbD_and]
  simp only [BitVec.getLsbD_append]
  interval_cases i <;> simp

/-- A word of format R with a value (R81). -/
theorem formatRWrite (op : BitVec 4) (a : BitVec 8) (v : BitVec 16) :
    ((op ++ a ++ (0 : BitVec 36) ++ v) : Word64) &&& 0xF00FFFFFFFFF0000 = op ++ (0 : BitVec 60) := by
  refine BitVec.eq_of_getLsbD_eq fun i hi => ?_
  rw [BitVec.getLsbD_and]
  simp only [BitVec.getLsbD_append]
  interval_cases i <;> simp

/-- A word of format R without a value (R81). -/
theorem formatRRead (op : BitVec 4) (a : BitVec 8) :
    ((op ++ a ++ (0 : BitVec 52)) : Word64) &&& 0xF00FFFFFFFFFFFFF = op ++ (0 : BitVec 60) := by
  refine BitVec.eq_of_getLsbD_eq fun i hi => ?_
  rw [BitVec.getLsbD_and]
  simp only [BitVec.getLsbD_append]
  interval_cases i <;> simp

theorem encodeConfig (mode : ConvMode) (rate chan gain : Int) (cmp : Bool) : Statement (.encodeConfig mode rate chan gain cmp) :=
  formatE _ _ _ _ _

theorem decodeConfig (raw : Word16) : Statement (.decodeConfig raw) :=
  formatV16 2 raw

theorem decodeSample (raw : Word16) : Statement (.decodeSample raw) :=
  formatV16 3 raw

theorem encodeThreshold (value : Int) : Statement (.encodeThreshold value) :=
  formatV32 4 _

theorem blockingRead (rate ch1 : Int) (ch2 : Option Int) : Statement (.blockingRead rate ch1 ch2) :=
  formatQ 5 _ _ _ _

theorem setConv (rate ch1 : Int) (ch2 : Option Int) : Statement (.setConv rate ch1 ch2) :=
  formatQ 6 _ _ _ _

theorem readRev : Statement .readRev :=
  rfl

theorem alertStart (rate ch1 : Int) (ch2 thr : Option Int) : Statement (.alertStart rate ch1 ch2 thr) :=
  formatQThreshold 8 _ _ _ _ _ _

theorem alertRead : Statement .alertRead :=
  rfl

theorem conversionStart (rate ch1 : Int) (ch2 : Option Int) : Statement (.conversionStart rate ch1 ch2) :=
  formatQ 10 _ _ _ _

theorem writeRegister (idx : Int) (value : Word16) : Statement (.writeRegister idx value) :=
  formatRWrite 11 _ value

theorem readRegister (idx : Int) : Statement (.readRegister idx) :=
  formatRRead 12 _

end Sys2Proof.Laws.TableRow
end

