-- ==== Sys2Proof/Machine/Assembly.lean ====
section
/-! DEFINITION. The assembler syntax (R86) at the level of lines: mnemonic and operands in the source's order, an
absent optional operand written `-`. No command word depends on it. -/

namespace Sys2Proof

/-- One operand of an assembler line (R86). -/
inductive AsmOperand where
  | int (i : Int)
  | word (w : Word16)
  /-- `SS`. -/
  | ss
  /-- `CONT`. -/
  | cont
  /-- `-`. -/
  | absent
deriving DecidableEq, Repr

/-- One assembler line. -/
structure AsmLine where
  mnemonic : String
  operands : List AsmOperand
deriving DecidableEq, Repr

/-- The mnemonic of a command (R75). -/
def mnemonicOf : Instr → String
  | .encodeConfig .. => "ENCODE_CONFIG"
  | .decodeConfig .. => "DECODE_CONFIG"
  | .decodeSample .. => "DECODE_SAMPLE"
  | .encodeThreshold .. => "ENCODE_THRESHOLD"
  | .blockingRead .. => "BLOCKING_READ"
  | .setConv .. => "SET_CONV"
  | .readRev => "READ_REV"
  | .alertStart .. => "ALERT_START"
  | .alertRead => "ALERT_READ"
  | .conversionStart .. => "CONVERSION_START"
  | .writeRegister .. => "WRITE_REGISTER"
  | .readRegister .. => "READ_REGISTER"

/-- `SS` or `CONT` (R86). -/
def asmMode : ConvMode → AsmOperand
  | .singleShot => .ss
  | .continuous => .cont

/-- An optional operand, `-` when absent (R86). -/
def asmOption : Option Int → AsmOperand
  | some i => .int i
  | none => .absent

/-- The operands in the source's order (R86). -/
def asmOperands : Instr → List AsmOperand
  | .encodeConfig mode rate chan gain cmp =>
    [asmMode mode, .int rate, .int chan, .int gain, .int (if cmp then 1 else 0)]
  | .decodeConfig raw => [.word raw]
  | .decodeSample raw => [.word raw]
  | .encodeThreshold value => [.int value]
  | .blockingRead rate ch1 ch2 => [.int rate, .int ch1, asmOption ch2]
  | .setConv rate ch1 ch2 => [.int rate, .int ch1, asmOption ch2]
  | .readRev => []
  | .alertStart rate ch1 ch2 thr => [.int rate, .int ch1, asmOption ch2, asmOption thr]
  | .alertRead => []
  | .conversionStart rate ch1 ch2 => [.int rate, .int ch1, asmOption ch2]
  | .writeRegister idx value => [.int idx, .word value]
  | .readRegister idx => [.int idx]

/-- The assembler line of a command (R86). -/
def asmLine (i : Instr) : AsmLine := ⟨mnemonicOf i, asmOperands i⟩

end Sys2Proof
end

