-- ==== Sys2Proof/Machine/HostTables.lean ====
section
/-! DEFINITION. What the indexes mean to the host: the input selections (R62), the full-scale ranges (R65), the
comparator's sub-fields (R67), the sample rates (R195) and the period contract (R186). Data and premises for the
host; no command reads any of it (R65, R195; log 13). -/

namespace Sys2Proof.Machine

/-- An input of the converter (R62). -/
inductive AnalogInput where
  | ain0
  | ain1
  | ain2
  | ain3
  | fixedReference
deriving DecidableEq, Repr

/-- The positive and the negative input of a channel index (R62); no meaning outside 0 to 7. -/
def inputSelection (chan : Int) : Option (AnalogInput × AnalogInput) :=
  if chan = 0 then some (.ain0, .ain1)
  else if chan = 1 then some (.ain0, .ain3)
  else if chan = 2 then some (.ain1, .ain3)
  else if chan = 3 then some (.ain2, .ain3)
  else if chan = 4 then some (.ain0, .fixedReference)
  else if chan = 5 then some (.ain1, .fixedReference)
  else if chan = 6 then some (.ain2, .fixedReference)
  else if chan = 7 then some (.ain3, .fixedReference)
  else none

/-- The full-scale range of a gain index in millivolts, plus or minus (R65). -/
def fullScaleMillivolts (gain : Int) : Option Nat :=
  if gain = 0 then some 6144
  else if gain = 1 then some 4096
  else if gain = 2 then some 2048
  else if gain = 3 then some 1024
  else if gain = 4 then some 512
  else if gain = 5 then some 256
  else none

/-- The samples per second of a rate index (R195); for index 7 on the 12-bit variant the table states none (U9). -/
def samplesPerSecond (v : Variant) (rate : Int) : Option Nat :=
  if rate = 0 then some (match v with | .v12 => 128 | .v16 => 8)
  else if rate = 1 then some (match v with | .v12 => 250 | .v16 => 16)
  else if rate = 2 then some (match v with | .v12 => 490 | .v16 => 32)
  else if rate = 3 then some (match v with | .v12 => 920 | .v16 => 64)
  else if rate = 4 then some (match v with | .v12 => 1600 | .v16 => 128)
  else if rate = 5 then some (match v with | .v12 => 2400 | .v16 => 250)
  else if rate = 6 then some (match v with | .v12 => 3300 | .v16 => 475)
  else if rate = 7 then (match v with | .v12 => none | .v16 => some 860)
  else none

/-- The comparator's sub-fields (R67). -/
structure ComparatorField where
  /-- 1 = window comparator. -/
  cmpMode : Bool
  /-- 1 = alert pin active-high. -/
  cmpPol : Bool
  /-- 1 = latching. -/
  cmpLat : Bool
  /-- How many conversions beyond the threshold assert the pin; `none` = comparator disabled. -/
  conversions : Option Nat
deriving DecidableEq, Repr

/-- The comparator sub-fields of a ConfigWord (R67). -/
def comparatorField (w : Word16) : ComparatorField where
  cmpMode := w.getLsbD 4
  cmpPol := w.getLsbD 3
  cmpLat := w.getLsbD 2
  conversions :=
    match (w.extractLsb' 0 2).toNat with
    | 0 => some 1
    | 1 => some 2
    | 2 => some 4
    | _ => none

/-- The period contract of READ_REV (R186): the period exceeds one conversion, one register read and one register
write, all in microseconds. A premise a claim about fresh samples needs, never a check of the block (R185).
Mark: DESIGN CHOICE, log 15, safe as a premise: where R195 states no frequency (index 7 on the 12-bit variant, U9; an
index out of range) no period meets the contract. -/
def MeetsPeriodContract (v : Variant) (rate : Int) (period readTime writeTime : Nat) : Prop :=
  match samplesPerSecond v rate with
  | some sps => 1000000 + (readTime + writeTime) * sps < period * sps
  | none => False

end Sys2Proof.Machine
end

