-- ==== Sys2Proof/Tests/Slice0.lean ====
section
/-! SUPPORT. Tests. Every expected result is written out in spec/95_test_vectors.md or in the rule named; a name such
as V-C1 is that file's. Then, for every obligation with hypotheses, a witness that meets them. -/

namespace Sys2Proof.Tests

open Sys2Proof.Machine

/-! ### Well-formedness: an ill-formed term for each check (R82) -/

theorem test_wf_boundaries :
    (Instr.alertStart (-128) 127 (some (-128)) (some (-2147483648))).wf = true ∧
    (Instr.alertStart 127 (-128) (some 127) (some 2147483647)).wf = true := by decide

theorem test_wf_refuses_encodeConfig_rate : (Instr.encodeConfig .singleShot 128 0 0 false).wf = false := by decide
theorem test_wf_refuses_encodeConfig_chan : (Instr.encodeConfig .singleShot 0 (-129) 0 false).wf = false := by decide
theorem test_wf_refuses_encodeConfig_gain : (Instr.encodeConfig .singleShot 0 0 128 false).wf = false := by decide
theorem test_wf_refuses_encodeThreshold : (Instr.encodeThreshold 2147483648).wf = false := by decide
theorem test_wf_refuses_blockingRead :
    (Instr.blockingRead 128 0 none).wf = false ∧ (Instr.blockingRead 0 128 none).wf = false ∧
    (Instr.blockingRead 0 0 (some (-129))).wf = false := by decide
theorem test_wf_refuses_setConv :
    (Instr.setConv (-129) 0 none).wf = false ∧ (Instr.setConv 0 128 none).wf = false ∧
    (Instr.setConv 0 0 (some 128)).wf = false := by decide
theorem test_wf_refuses_alertStart :
    (Instr.alertStart 128 0 none none).wf = false ∧ (Instr.alertStart 0 (-129) none none).wf = false ∧
    (Instr.alertStart 0 0 (some 128) none).wf = false ∧
    (Instr.alertStart 0 0 none (some (-2147483649))).wf = false := by decide
theorem test_wf_refuses_conversionStart :
    (Instr.conversionStart 128 0 none).wf = false ∧ (Instr.conversionStart 0 128 none).wf = false ∧
    (Instr.conversionStart 0 0 (some 128)).wf = false := by decide
theorem test_wf_refuses_writeRegister : (Instr.writeRegister 128 0).wf = false := by decide
theorem test_wf_refuses_readRegister : (Instr.readRegister (-129)).wf = false := by decide

/-! ### Decoding, word by word -/

/-- V-E7 written out: op 1, rate 7, chan 7, gain 5, mode 1, cmp 1, zeros. -/
theorem test_decode_encodeConfig :
    decode 0b0001_00000111_00000111_00000101_1_1_0000000000000000000000000000000000 =
      .ok (.encodeConfig .singleShot 7 7 5 true) := by decide
/-- V-E4: continuous, comparator enabled. -/
theorem test_decode_encodeConfig_continuous :
    decode 0x1000000400000000 = .ok (.encodeConfig .continuous 0 0 0 true) := by decide
/-- V-E11: a negative rate. -/
theorem test_decode_encodeConfig_negative :
    decode 0x1FF0401800000000 = .ok (.encodeConfig .singleShot (-1) 4 1 false) := by decide
theorem test_decode_decodeConfig : decode 0x2000000000004E83 = .ok (.decodeConfig 0x4E83) := by decide
theorem test_decode_decodeSample : decode 0x3000000000000FF0 = .ok (.decodeSample 0x0FF0) := by decide
theorem test_decode_encodeThreshold :
    decode 0x40000000FFFFFFFF = .ok (.encodeThreshold (-1)) ∧
    decode 0x4000000000008000 = .ok (.encodeThreshold 32768) := by decide
/-- V-C2 written out: op 5, rate 4, ch1 0, ch2 1, ch2p 1, thrp 0, zeros. -/
theorem test_decode_blockingRead :
    decode 0b0101_00000100_00000000_00000001_1_0_00_00000000000000000000000000000000 =
      .ok (.blockingRead 4 0 (some 1)) := by decide
theorem test_decode_setConv : decode 0x6070203800000000 = .ok (.setConv 7 2 (some 3)) := by decide
theorem test_decode_readRev : decode 0x7000000000000000 = .ok .readRev := by decide
/-- V-C22: every field in use, the threshold negative. -/
theorem test_decode_alertStart :
    decode 0x8090100CFFFFFFFB = .ok (.alertStart 9 1 (some 0) (some (-5))) := by decide
/-- V-C11: threshold 0 is present. -/
theorem test_decode_alertStart_zero : decode 0x8040000400000000 = .ok (.alertStart 4 0 none (some 0)) := by decide
theorem test_decode_alertRead : decode 0x9000000000000000 = .ok .alertRead := by decide
theorem test_decode_conversionStart : decode 0xA070001800000000 = .ok (.conversionStart 7 0 (some 1)) := by decide
theorem test_decode_writeRegister :
    decode 0xB030000000007FF0 = .ok (.writeRegister 3 0x7FF0) ∧
    decode 0xBFF0000000000000 = .ok (.writeRegister (-1) 0) := by decide
theorem test_decode_readRegister : decode 0xC010000000000000 = .ok (.readRegister 1) := by decide

/-- V-I1 to V-I10, each refused by its name. -/
theorem test_decode_illegal :
    decode 0x0000000000000000 = .error .reservedOpcode ∧ decode 0xD000000000000000 = .error .reservedOpcode ∧
    decode 0xE000000000000000 = .error .reservedOpcode ∧ decode 0xF000000000000000 = .error .reservedOpcode ∧
    decode 0x7000000000000001 = .error .mustBeZero ∧ decode 0x50400004000003E8 = .error .thresholdNotTaken ∧
    decode 0x5040001000000000 = .error .channel2WithoutPresence ∧
    decode 0x80400000000003E8 = .error .thresholdWithoutPresence ∧
    decode 0xC010000000000001 = .error .mustBeZero ∧ decode 0x1040401800000001 = .error .mustBeZero ∧
    decode 0x3000000000010FF0 = .error .mustBeZero ∧ decode 0x8040000200000000 = .error .mustBeZero := by decide

/-- The encoder on three vectors (V-C22, V-E11, V-R5). -/
theorem test_encode :
    encode (.alertStart 9 1 (some 0) (some (-5))) = 0x8090100CFFFFFFFB ∧
    encode (.encodeConfig .singleShot (-1) 4 1 false) = 0x1FF0401800000000 ∧
    encode (.writeRegister (-1) 0) = 0xBFF0000000000000 := by decide

theorem test_decodeTableWord :
    decodeTableWord 64 0x7000000000000000 = some .readRev ∧ decodeTableWord 64 0xD000000000000000 = none := by decide

/-! ### One command, one step -/

/-- The columns of a vector of 95_test_vectors.md: trace, response, state after. -/
structure Seen where
  events : List Event
  rsp : List Word32
  phase : Phase
  cfg : Option Word16
  hi : Option Word16
  lo : Option Word16
deriving DecidableEq, Repr

/-- The columns of a state. -/
def seen (t : State) : Seen where
  events := t.trace.map Access.event
  rsp := t.responses.map Response.rsp
  phase := t.phase
  cfg := (status t).cfgCache
  hi := (status t).thrHi
  lo := (status t).thrLo

/-- A handle at reset, at the default address. -/
def fresh (v : Variant) (g : Int) : State := State.create v 0x48 g

/-- The same handle after a SET_CONV 4, 0, - at gain 1 (cfg 0xC383). -/
def armed : State := { fresh .v16 1 with cfgCache := 0xC383, cfgValid := true, phase := .singleShotArmed }

/-- The word presented to the state, with the environment's answers lined up. -/
def given (s : State) (w : Word64) (answers : List Answer) : State := present { s with answers := answers } w

/-- What one step on that word shows. -/
def shows (s : State) (w : Word64) (answers : List Answer) : Option Seen :=
  match step (given s w answers) with
  | .next t => some (seen t)
  | .fault _ => none
  | .refused _ => none

/-- An access that succeeds, and one that fails. -/
def ok (v : Word16) : Answer := .success v
def bad : Answer := .failure ⟨7⟩

theorem test_encodeConfig :   -- V-E8
    shows (fresh .v12 6) 0x1070105400000000 [] = some ⟨[], [0x00001AE0], .idle, none, none, none⟩ := by decide
theorem test_encodeConfig_gain :   -- V-E13
    shows (fresh .v16 1) 0x1040406800000000 [] = some ⟨[], [0x13000000], .idle, none, none, none⟩ := by decide
theorem test_decodeConfig :   -- V-D4
    shows (fresh .v16 1) 0x200000000000FFFF [] = some ⟨[], [0x00000FFE], .idle, none, none, none⟩ := by decide
theorem test_decodeConfig_comparator :   -- V-D7
    shows (fresh .v16 1) 0x200000000000C280 [] = some ⟨[], [0x00000C29], .idle, none, none, none⟩ := by decide
theorem test_decodeSample_v12 :   -- V-S16
    shows (fresh .v12 1) 0x300000000000ABCD [] = some ⟨[], [0x0000FABC], .idle, none, none, none⟩ := by decide
theorem test_decodeSample_rounds_down :   -- V-S17
    shows (fresh .v12 1) 0x300000000000FF38 [] = some ⟨[], [0x0000FFF3], .idle, none, none, none⟩ := by decide
theorem test_encodeThreshold :   -- V-T4
    shows (fresh .v12 1) 0x40000000000007FF [] = some ⟨[], [0x00007FF0], .idle, none, none, none⟩ := by decide
theorem test_encodeThreshold_above :   -- V-T5
    shows (fresh .v12 1) 0x4000000000000800 [] = some ⟨[], [0x14000000], .idle, none, none, none⟩ := by decide
theorem test_blockingRead :   -- V-C2
    shows (fresh .v16 1) 0x5040001800000000 [ok 0, ok 0x8383, ok 0xFF38] =
      some ⟨[.wrote .config 0x8383, .didRead .config 0x8383, .didRead .conversion 0xFF38], [0x0000FF38], .idle,
        some 0x8383, none, none⟩ := by decide
theorem test_blockingRead_polls_on :   -- V-C3, its first poll
    shows (fresh .v16 1) 0x5040000000000000 [ok 0, ok 0x7FFF, ok 0x0000, ok 0x8000, ok 0x8000] =
      some ⟨[.wrote .config 0xC383, .didRead .config 0x7FFF], [], .singleShotArmed, some 0xC383, none, none⟩ := by
  decide
theorem test_setConv :   -- V-C4
    shows (fresh .v16 1) 0x6070203800000000 [ok 0] =
      some ⟨[.wrote .config 0xB3E3], [0], .singleShotArmed, some 0xB3E3, none, none⟩ := by decide
theorem test_setConv_fails :   -- V-X1
    shows (fresh .v16 1) 0x6040000000000000 [bad] =
      some ⟨[.writeFailed .config 0xC383 ⟨7⟩], [0x20000000], .idle, none, none, none⟩ := by decide
theorem test_readRev :   -- V-C5
    shows armed 0x7000000000000000 [ok 0xFFFF, ok 0] =
      some ⟨[.didRead .conversion 0xFFFF, .wrote .config 0xC383], [0x0000FFFF], .singleShotArmed, some 0xC383, none,
        none⟩ := by decide
theorem test_readRev_write_fails :   -- V-X4
    shows armed 0x7000000000000000 [ok 0x0100, bad] =
      some ⟨[.didRead .conversion 0x0100, .writeFailed .config 0xC383 ⟨7⟩], [0x20000000], .idle, some 0xC383, none,
        none⟩ := by decide
theorem test_alertStart_default :   -- V-C9
    shows (fresh .v12 1) 0x8040000000000000 [ok 0, ok 0, ok 0] =
      some ⟨[.wrote .highThreshold 0x7FF0, .wrote .lowThreshold 0, .wrote .config 0x4280], [0], .continuous,
        some 0x4280, some 0x7FF0, some 0⟩ := by decide
theorem test_alertStart_fails :   -- V-X6
    shows (fresh .v16 1) 0x80400004000003E8 [ok 0, bad] =
      some ⟨[.wrote .highThreshold 0x03E8, .writeFailed .lowThreshold 0 ⟨7⟩], [0x20000000], .idle, none, some 0x03E8,
        none⟩ := by decide
theorem test_alertRead :   -- P3 step 7: the phase goes to Idle
    shows { armed with variant := .v12 } 0x9000000000000000 [ok 0x0010] =
      some ⟨[.didRead .conversion 0x0010], [0x00000001], .idle, some 0xC383, none, none⟩ := by decide
theorem test_alertRead_fresh :   -- V-C14
    shows (fresh .v16 1) 0x9000000000000000 [ok 0x0001] =
      some ⟨[.didRead .conversion 0x0001], [0x00000001], .idle, none, none, none⟩ := by decide
/-- V-C15, V-C17: the two named instantiations of the parameters (R117, D15). -/
theorem test_conversionStart_instantiations :
    seen (conversionStartWith convstartHiDev cmpEveryNamed 4 0 none { fresh .v16 1 with answers := [ok 0, ok 0, ok 0] })
      = ⟨[.wrote .highThreshold 0x8000, .wrote .lowThreshold 0, .wrote .config 0x4280], [0], .continuous,
          some 0x4280, some 0x8000, some 0⟩ ∧
    seen (conversionStartWith (convstartHiDoc .v12) cmpEveryNamed 7 0 (some 1)
        { fresh .v12 1 with answers := [ok 0, ok 0, ok 0] })
      = ⟨[.wrote .highThreshold 0x7FF0, .wrote .lowThreshold 0, .wrote .config 0x02E0], [0], .continuous,
          some 0x02E0, some 0x7FF0, some 0⟩ := by decide
/-- CONVERSION_START has no threshold operand, and its operands are checked like ALERT_START's (R117). -/
theorem test_conversionStart_rate :
    shows (fresh .v16 1) 0xA080000000000000 [] = some ⟨[], [0x11000000], .idle, none, none, none⟩ := by decide
theorem test_writeRegister :   -- V-R1
    shows armed 0xB030000000007FF0 [ok 0] =
      some ⟨[.wrote .highThreshold 0x7FF0], [0], .singleShotArmed, some 0xC383, none, none⟩ := by decide
theorem test_writeRegister_index :   -- V-R4
    shows (fresh .v16 1) 0xB040000000000000 [] = some ⟨[], [0x15000000], .idle, none, none, none⟩ := by decide
theorem test_readRegister :   -- V-R7: raw on either variant, the phase stays
    shows { armed with variant := .v12 } 0xC000000000000000 [ok 0x0FF0] =
      some ⟨[.didRead .conversion 0x0FF0], [0x00000FF0], .singleShotArmed, some 0xC383, none, none⟩ := by decide
theorem test_readRegister_index :   -- V-R8
    shows (fresh .v16 1) 0xC040000000000000 [] = some ⟨[], [0x15000000], .idle, none, none, none⟩ := by decide
theorem test_illegal_word :   -- P4 step 6
    shows (fresh .v12 1) 0xD000000000000000 [] = some ⟨[], [0x40000000], .idle, none, none, none⟩ := by decide
theorem test_not_primed :   -- V-C6
    shows (fresh .v12 1) 0x7000000000000000 [] = some ⟨[], [0x31000000], .idle, none, none, none⟩ := by decide
theorem test_priority :   -- V-C22
    shows (fresh .v16 6) 0x8090100CFFFFFFFB [] = some ⟨[], [0x11000000], .idle, none, none, none⟩ := by decide

/-- The ten pairs of 2.5 that raise, and the eight that do not (R90). -/
theorem test_chanOf :
    (channelPairs.map fun p => chanOf p.1.1 p.1.2) = (channelPairs.map fun p => .ok p.2) ∧
    ([(1, some 0), (3, some 0), (0, some 2), (1, some 2), (0, some 0), (3, some 3), (4, none), (-1, none), (2, some 1),
      (3, some 2)].all fun p => chanOf p.1 p.2 == .error .channelRange) = true := by decide

/-- Rows of the host's tables (R62, R65, R67, R68, R195). -/
theorem test_hostTables :
    inputSelection 1 = some (.ain0, .ain3) ∧ inputSelection 7 = some (.ain3, .fixedReference) ∧
    fullScaleMillivolts 0 = some 6144 ∧ fullScaleMillivolts 6 = none ∧ samplesPerSecond .v12 4 = some 1600 ∧
    samplesPerSecond .v12 7 = none ∧ samplesPerSecond .v16 7 = some 860 ∧
    comparatorField 0x4280 = ⟨false, false, false, some 1⟩ ∧ comparatorField 0xC383 = ⟨false, false, false, none⟩ := by
  decide

/-- An assembler line of V-C7 and of V-C8 (R86). -/
theorem test_asmLine :
    asmLine (.alertStart 4 0 none (some 1000)) = ⟨"ALERT_START", [.int 4, .int 0, .absent, .int 1000]⟩ ∧
    asmLine (.alertStart 4 0 none none) = ⟨"ALERT_START", [.int 4, .int 0, .absent, .absent]⟩ := by decide

/-! ### Witnesses: every obligation's hypotheses can be met, each clause's at a boundary -/

/-- A block that polls for the word 0xC383. -/
def polling (answers : List Answer) : State := { armed with busy := true, answers := answers }

/-- A block in continuous mode with cfg 0x4280. -/
def sampling (answers : List Answer) : State :=
  { fresh .v12 1 with
    cfgCache := 0x4280, cfgValid := true, phase := .continuous, thrHi := 0x7FF0, thrHiValid := true, thrLoValid := true
    answers := answers }

theorem witness_DecodeOfEncodedCommand : (Instr.encodeThreshold (-2147483648)).wf = true := by decide
theorem witness_EncodeOfDecodedWord :
    decode 0x8080080C80000000 = .ok (.alertStart 8 0 (some (-128)) (some (-2147483648))) := by decide
theorem witness_IllegalWordChangesNothing :
    (given armed 0xF000000000000000 []).busy = false ∧
    (given armed 0xF000000000000000 []).program = [0xF000000000000000] ∧
    LegalWord 0xF000000000000000 = false := by decide
theorem witness_StepRunsDecodedCommand :
    (given armed 0x7000000000000000 []).busy = false ∧
    (given armed 0x7000000000000000 []).program = [0x7000000000000000] ∧
    decode 0x7000000000000000 = .ok .readRev := by decide
theorem witness_StepWithoutCommand :
    (armed.busy = false ∧ armed.program = []) ∧ (polling []).busy = true := by decide

theorem witness_StepKeepsInvariant : ∃ t, BlockInv (polling [ok 0x4383]) ∧ step (polling [ok 0x4383]) = .next t := by
  refine ⟨_, ?_, rfl⟩
  exact { cache := fun _ => ⟨4, 4, by decide, by decide, by decide, .inl (by decide)⟩
          armed := by decide
          continuous := by decide
          idle := by decide
          thresholdsFirst := by decide
          low := by decide
          high := fun h => nomatch h
          polling := by decide
          addressed := by decide
          answered := fun _ h => nomatch h }

theorem witness_HandleConstantsNeverChange : ∃ t, step (given armed 0x7000000000000000 [ok 0, ok 0]) = .next t :=
  ⟨_, rfl⟩
theorem witness_EveryAccessIsAddressed : ∃ t, step (polling [bad]) = .next t := ⟨_, rfl⟩
theorem witness_CommandFollowsAccessMatrix : ∃ t r, exec .readRev { armed with answers := [ok 5, ok 0] } = .next t ∧
    t.responses = armed.responses ++ [r] ∧ r.rsp.extractLsb' 28 4 = 0 :=
  ⟨_, _, rfl, rfl, by decide⟩
theorem witness_PollFollowsAccessMatrix :
    (∃ t, step (polling [ok 0x7FFF]) = .next t ∧ t.busy = true ∧
      t.trace = accessesOf armed [.didRead .config 0x7FFF]) ∧
    (∃ t, step (polling [ok 0x8000, bad]) = .next t ∧ t.busy = false ∧
      t.trace = accessesOf armed [.didRead .config 0x8000, .readFailed .conversion ⟨7⟩]) ∧
    (∃ t, step (polling [bad]) = .next t ∧ t.busy = false ∧ t.trace = accessesOf armed [.readFailed .config ⟨7⟩]) :=
  ⟨⟨_, rfl, rfl, rfl⟩, ⟨_, rfl, rfl, rfl⟩, ⟨_, rfl, rfl, rfl⟩⟩
theorem witness_OneResponsePerCommand :
    (∃ t, exec (.blockingRead 4 0 none) { fresh .v16 1 with answers := [ok 0, ok 0x7FFF] } = .next t ∧
      t.busy = true) ∧
    (∃ t, exec (.blockingRead 4 0 none) { fresh .v16 1 with answers := [ok 0, ok 0x8000, ok 5] } = .next t ∧
      t.busy = false) :=
  ⟨⟨_, rfl, rfl⟩, ⟨_, rfl, rfl⟩⟩
theorem witness_TransportFailureEndsCommand :
    (∃ t evs, exec .readRev { armed with answers := [ok 5, bad] } = .next t ∧
      t.trace = armed.trace ++ accessesOf armed evs ∧ Event.writeFailed .config 0xC383 ⟨7⟩ ∈ evs) ∧
    (∃ t evs, step (polling [bad]) = .next t ∧
      t.trace = armed.trace ++ accessesOf armed evs ∧ Event.readFailed .config ⟨7⟩ ∈ evs) :=
  ⟨⟨_, [.didRead .conversion 5, .writeFailed .config 0xC383 ⟨7⟩], rfl, by decide, by decide⟩,
   ⟨_, [.readFailed .config ⟨7⟩], rfl, by decide, by decide⟩⟩
theorem witness_BookkeepingIsReplayOfAccesses :
    (isRaw .readRev = false ∧ ∃ t, exec .readRev { armed with answers := [ok 5, ok 0] } = .next t) ∧
    ((polling [ok 0x8000, ok 5]).busy = true ∧ ∃ t, step (polling [ok 0x8000, ok 5]) = .next t) :=
  ⟨⟨rfl, _, rfl⟩, rfl, _, rfl⟩
theorem witness_RawAccessKeepsBookkeeping :
    isRaw (.writeRegister 0 0x1234) = true ∧ isRaw (.readRegister 3) = true ∧
    ∃ t, exec (.writeRegister 0 0x1234) { armed with answers := [ok 0] } = .next t :=
  ⟨rfl, rfl, _, rfl⟩
theorem witness_OnlyListedCommandsWriteState :
    isCodec (.decodeSample 0) = true ∧ isRaw (.readRegister 0) = true ∧
    (∃ t, exec .alertRead { armed with answers := [ok 0] } = .next t) ∧
    ((∀ rate ch1 ch2 thr, Instr.readRev ≠ .alertStart rate ch1 ch2 thr) ∧
      (∀ rate ch1 ch2, Instr.readRev ≠ .conversionStart rate ch1 ch2)) :=
  ⟨rfl, rfl, ⟨_, rfl⟩, by simp, by simp⟩
theorem witness_ThresholdWritesOfController :
    (∃ t evs, exec (.alertStart 4 0 none none) { fresh .v12 1 with answers := [ok 0, bad] } = .next t ∧
      t.trace = accessesOf (fresh .v12 1) evs ∧ Event.wrote .highThreshold 0x7FF0 ∈ evs ∧
      Event.writeFailed .lowThreshold 0x0000 ⟨7⟩ ∈ evs) ∧
    (∃ t evs, exec (.conversionStart 4 0 none) { fresh .v12 1 with answers := [bad] } = .next t ∧
      t.trace = accessesOf (fresh .v12 1) evs ∧
      Event.writeFailed .highThreshold (Config.convstartHiRaw .v12) ⟨7⟩ ∈ evs) :=
  ⟨⟨_, [.wrote .highThreshold 0x7FF0, .writeFailed .lowThreshold 0 ⟨7⟩], rfl, by decide, by decide, by decide⟩,
   ⟨_, [.writeFailed .highThreshold (Config.convstartHiRaw .v12) ⟨7⟩], rfl, rfl, List.mem_cons_self⟩⟩
theorem witness_ConfigWritesOfController :
    (∃ t evs, exec .readRev { sampling [ok 5, bad] with responses := [] } = .next t ∧
      t.trace = accessesOf (sampling []) evs ∧ Event.writeFailed .config 0xC280 ⟨7⟩ ∈ evs) ∧
    (∃ t evs, exec (.setConv 7 2 (some 3)) { fresh .v16 1 with answers := [ok 0] } = .next t ∧
      t.trace = accessesOf (fresh .v16 1) evs ∧ Event.wrote .config 0xB3E3 ∈ evs) :=
  ⟨⟨_, [.didRead .conversion 5, .writeFailed .config 0xC280 ⟨7⟩], rfl, by decide, by decide⟩,
   ⟨_, [.wrote .config 0xB3E3], rfl, by decide, by decide⟩⟩
theorem witness_CommandWithoutWordIsInvalid : (Instr.encodeThreshold 2147483648).wf = false := by decide
theorem witness_InvalidOperandsEndWithoutEffect :
    OperandsInvalid (fresh .v16 1) (.setConv 8 0 none) ∧ OperandsInvalid (fresh .v16 1) (.setConv 4 1 (some 0)) ∧
    OperandsInvalid (fresh .v16 6) (.setConv 4 0 none) ∧
    OperandsInvalid (fresh .v12 1) (.alertStart 4 0 none (some 2048)) ∧
    OperandsInvalid (fresh .v16 1) (.readRegister (-1)) := by
  unfold OperandsInvalid
  decide
theorem witness_FirstFailingCauseIsReported :
    firstCause (causesOf (fresh .v16 6) (.alertStart 9 1 (some 0) (some (-5)))) = some .rateRange ∧
    firstCause (causesOf (fresh .v12 5) (.alertStart 7 3 none (some 2047))) = none ∧
    ∃ t r, exec .alertRead { armed with answers := [ok 0] } = .next t ∧ t.responses = armed.responses ++ [r] :=
  ⟨by decide, by decide, _, _, rfl, rfl⟩
theorem witness_OnlyUnprimedReadRevIsRefused :
    (fresh .v16 1).cfgValid = false ∧
    (∃ t r, exec .readRev (fresh .v16 1) = .next t ∧ t.responses = [r] ∧ r.rsp.extractLsb' 28 4 = 3) :=
  ⟨rfl, _, _, rfl, rfl, by decide⟩
theorem witness_FirstAccessFailureChangesNothing :
    (¬ OperandsInvalid armed (.writeRegister 3 0) ∧ accessMatrix (.writeRegister 3 0) = [.w .highThreshold]) ∧
    (¬ OperandsInvalid armed .readRev ∧ armed.cfgValid = true ∧
      accessMatrix .readRev = .r .conversion :: [.w .config]) ∧
    (∀ q : Request, nextAnswer { armed with answers := [bad] } q = .failure ⟨7⟩) := by
  refine ⟨?_, ?_, fun _ => rfl⟩ <;> unfold OperandsInvalid <;> decide
theorem witness_ReadRevWriteFailureLosesSample :
    armed.cfgValid = true ∧ EnvironmentDoes { armed with answers := [ok 0x0100, bad] }
      [.didRead .conversion 0x0100, .writeFailed .config (armed.cfgCache ||| 0x8000) ⟨7⟩] :=
  ⟨rfl, rfl, rfl, trivial⟩

/-- The operand hypotheses of the controller statements. -/
abbrev Answers (s : State) (rate ch1 : Int) (ch2 : Option Int) (c : Int) : Prop :=
  InRange 0 7 rate ∧ ((ch1, ch2), c) ∈ channelPairs ∧ InRange 0 5 s.gainIndex

/-- A handle at reset with the largest gain index, whose environment answers as given. -/
def fresh5 (answers : List Answer) : State := { fresh .v12 5 with answers := answers }

/-- The word BLOCKING_READ 7, 3, - on the port of such a handle. -/
def blocking5 (answers : List Answer) : State := given (fresh .v12 5) 0x5070300000000000 answers

theorem witness_AlertStartFailureLeavesMixedState :
    (Answers (fresh5 []) 7 3 none 7 ∧ InRange 0 (largestThreshold .v12) 2047 ∧
      InRange 0 (largestThreshold .v12) 0 ∧ 2047 = (none : Option Int).getD (largestThreshold .v12) ∧
      0 = (some 0 : Option Int).getD (largestThreshold .v12)) ∧
    EnvironmentDoes (fresh5 [ok 0, bad])
      [.wrote .highThreshold (thresholdWord .v12 2047), .writeFailed .lowThreshold 0x0000 ⟨7⟩] ∧
    EnvironmentDoes (fresh5 [ok 0, ok 0, bad])
      [.wrote .highThreshold (thresholdWord .v12 0), .wrote .lowThreshold 0x0000,
        .writeFailed .config (caWord 7 5 7) ⟨7⟩] :=
  ⟨by decide, ⟨⟨_, rfl⟩, rfl, trivial⟩, ⟨_, rfl⟩, ⟨_, rfl⟩, rfl, trivial⟩
theorem witness_ConversionStartFailureLeavesMixedState :
    Answers (fresh5 []) 7 3 none 7 ∧
    EnvironmentDoes (fresh5 [ok 0, bad])
      [.wrote .highThreshold (Config.convstartHiRaw .v12), .writeFailed .lowThreshold 0x0000 ⟨7⟩] ∧
    EnvironmentDoes (fresh5 [ok 0, ok 0, bad])
      [.wrote .highThreshold (Config.convstartHiRaw .v12), .wrote .lowThreshold 0x0000,
        .writeFailed .config (ceWord Config.cmpEvery 7 5 7) ⟨7⟩] :=
  ⟨by decide, ⟨⟨_, rfl⟩, rfl, trivial⟩, ⟨_, rfl⟩, ⟨_, rfl⟩, rfl, trivial⟩
theorem witness_BlockingReadFailureStaysArmed :
    (Answers (fresh5 []) 7 3 none 7 ∧ (0x8000 : Word16).getLsbD 15 = true) ∧
    EnvironmentDoes (fresh5 [ok 0, bad])
      [.wrote .config (ssWord 7 5 7), .readFailed .config ⟨7⟩] ∧
    EnvironmentDoes (fresh5 [ok 0, ok 0x8000, bad])
      [.wrote .config (ssWord 7 5 7), .didRead .config 0x8000, .readFailed .conversion ⟨7⟩] :=
  ⟨by decide, ⟨⟨_, rfl⟩, rfl, trivial⟩, ⟨_, rfl⟩, rfl, rfl, trivial⟩
theorem witness_EncodeConfigCompletes : InRange 0 7 7 ∧ InRange 0 7 0 ∧ InRange 0 5 5 := by decide
theorem witness_EncodeThresholdCompletes :
    InRange 0 (largestThreshold (fresh .v12 1).variant) 2047 ∧
    InRange 0 (largestThreshold (fresh .v16 1).variant) 32767 := by decide
theorem witness_CodecCommandsArePure :
    isCodec (.encodeThreshold (-1)) = true ∧ isCodec (.decodeConfig 0xFFFF) = true := by decide
theorem witness_CodecLaws : InRange 0 5 5 ∧ InRange 0 7 7 ∧ InRange 0 7 0 := by decide
theorem witness_EncodedThresholdDecodesToItself :
    encodeThreshold .v12 2047 = .ok 0x7FF0 ∧ encodeThreshold .v16 0 = .ok 0 := by decide
theorem witness_VariantProfileAndSampleRange :
    (∃ t, step (given (fresh .v12 1) 0x8040000000000000 [ok 0, ok 0, ok 0]) = .next t) ∧
    decodeSample .v12 0x8000 = -2048 ∧ decodeSample .v12 0x7FFF = 2047 ∧ decodeSample .v16 0x8000 = -32768 ∧
    decodeSample .v16 0x7FFF = 32767 :=
  ⟨⟨_, rfl⟩, by decide⟩
theorem witness_SetConvCompletes :
    Answers (fresh5 []) 7 3 none 7 ∧ EnvironmentDoes (fresh5 [ok 0]) [.wrote .config (ssWord 7 5 7)] :=
  ⟨by decide, ⟨_, rfl⟩, trivial⟩
theorem witness_BlockingReadCompletes :
    (Answers (fresh5 []) 7 3 none 7 ∧ (0x8000 : Word16).getLsbD 15 = true) ∧
    EnvironmentDoes (fresh5 [ok 0, ok 0x8000, ok 0x7FF0])
      [.wrote .config (ssWord 7 5 7), .didRead .config 0x8000, .didRead .conversion 0x7FF0] :=
  ⟨by decide, ⟨_, rfl⟩, rfl, rfl, trivial⟩

theorem witness_BlockingReadReturnsAfterAnyPolls :
    (Answers (blocking5 []) 7 3 none 7 ∧ decode 0x5070300000000000 = .ok (.blockingRead 7 3 none) ∧
      (blocking5 []).busy = false ∧ (blocking5 []).program = [0x5070300000000000]) ∧
    (∀ q ∈ [(0x7FFF : Word16), 0x0000], q.getLsbD 15 = false) ∧ (0x8000 : Word16).getLsbD 15 = true ∧
    EnvironmentDoes (blocking5 [ok 0, ok 0x7FFF, ok 0, ok 0x8000, ok 0x8000])
      (.wrote .config (ssWord 7 5 7) :: [(0x7FFF : Word16), 0x0000].map (.didRead .config) ++
        [.didRead .config 0x8000, .didRead .conversion 0x8000]) :=
  ⟨by decide, by simp, by decide, ⟨_, rfl⟩, rfl, rfl, rfl, rfl, trivial⟩
theorem witness_BlockingReadNeverTimesOut :
    (Answers (blocking5 []) 7 3 none 7 ∧ decode 0x5070300000000000 = .ok (.blockingRead 7 3 none) ∧
      (blocking5 []).busy = false ∧ (blocking5 []).program = [0x5070300000000000]) ∧
    (∀ q ∈ [(0x4383 : Word16), 0x4383], q.getLsbD 15 = false) ∧
    EnvironmentDoes (blocking5 [ok 0, ok 0x4383, ok 0x4383])
      (.wrote .config (ssWord 7 5 7) :: [(0x4383 : Word16), 0x4383].map (.didRead .config)) :=
  ⟨by decide, by simp, ⟨_, rfl⟩, rfl, rfl, trivial⟩
theorem witness_ReadRevCompletes :
    (sampling []).cfgValid = true ∧
    EnvironmentDoes (sampling [ok 6, ok 0]) [.didRead .conversion 6, .wrote .config ((sampling []).cfgCache ||| 0x8000)] :=
  ⟨rfl, rfl, ⟨_, rfl⟩, trivial⟩
theorem witness_AlertStartCompletes :
    (Answers (fresh5 []) 7 3 none 7 ∧ InRange 0 (largestThreshold .v12) 2047 ∧ InRange 0 (largestThreshold .v12) 0) ∧
    2047 = (none : Option Int).getD (largestThreshold .v12) ∧ 0 = (some 0 : Option Int).getD (largestThreshold .v12) ∧
    EnvironmentDoes (fresh5 [ok 0, ok 0, ok 0])
      [.wrote .highThreshold (thresholdWord .v12 2047), .wrote .lowThreshold 0x0000, .wrote .config (caWord 7 5 7)] :=
  ⟨by decide, rfl, rfl, ⟨_, rfl⟩, ⟨_, rfl⟩, ⟨_, rfl⟩, trivial⟩
theorem witness_AlertReadCompletes :
    EnvironmentDoes { armed with answers := [ok 0x7FFF] } [.didRead .conversion 0x7FFF] :=
  ⟨rfl, trivial⟩
theorem witness_ConversionStartCompletes :
    Answers (fresh5 []) 7 3 none 7 ∧
    EnvironmentDoes (fresh5 [ok 0, ok 0, ok 0])
      [.wrote .highThreshold (Config.convstartHiRaw .v12), .wrote .lowThreshold 0x0000,
        .wrote .config (ceWord Config.cmpEvery 7 5 7)] :=
  ⟨by decide, ⟨_, rfl⟩, ⟨_, rfl⟩, ⟨_, rfl⟩, trivial⟩
theorem witness_AccessCountsAreBounded :
    ¬ OperandsInvalid (fresh .v16 1) (.setConv 4 0 none) ∧
    ∃ t evs, exec (.setConv 4 0 none) { fresh .v16 1 with answers := [ok 0] } = .next t ∧
      t.trace = accessesOf (fresh .v16 1) evs ∧ ∀ e ∈ evs, failureOf e = none :=
  ⟨by unfold OperandsInvalid; decide, _, [.wrote .config 0xC383], rfl, by decide, by decide⟩
theorem witness_WriteRegisterCompletes :
    EnvironmentDoes { fresh .v16 1 with answers := [ok 0] } [.wrote .conversion 0x1234] ∧
    EnvironmentDoes { fresh .v16 1 with answers := [ok 0] } [.wrote .highThreshold 0xFFFF] :=
  ⟨⟨⟨_, rfl⟩, trivial⟩, ⟨_, rfl⟩, trivial⟩
theorem witness_ReadRegisterCompletes :
    EnvironmentDoes { fresh .v16 1 with answers := [ok 0x8583] } [.didRead .config 0x8583] :=
  ⟨rfl, trivial⟩
theorem witness_RawWriteIsUndoneByReadRev :
    ∃ t u, armed.cfgValid = true ∧
      EnvironmentDoes { armed with answers := [ok 0, ok 5, ok 0] }
        [.wrote .config 0x4483, .didRead .conversion 5, .wrote .config (armed.cfgCache ||| 0x8000)] ∧
      exec (.writeRegister 1 0x4483) { armed with answers := [ok 0, ok 5, ok 0] } = .next t ∧
      exec .readRev t = .next u :=
  ⟨_, _, rfl, ⟨⟨_, rfl⟩, rfl, ⟨_, rfl⟩, trivial⟩, rfl, rfl⟩
/-- A SET_CONV 7, 3, - and two READ_REVs on the port. -/
def pipeline5 : State :=
  { fresh5 [ok 0, ok 0x0010, ok 0, ok 0xFFF0, ok 0] with
    program := 0x6070300000000000 :: (List.replicate 2 0x7000000000000000 ++ []) }

theorem witness_PipelineAlternatesReadAndRetrigger :
    (Answers pipeline5 7 3 none 7 ∧ pipeline5.busy = false ∧
      pipeline5.program = 0x6070300000000000 :: (List.replicate 2 0x7000000000000000 ++ []) ∧
      decode 0x6070300000000000 = .ok (.setConv 7 3 none)) ∧
    EnvironmentDoes pipeline5 (.wrote .config (ssWord 7 5 7) ::
      [(0x0010 : Word16), 0xFFF0].flatMap fun raw => [.didRead .conversion raw, .wrote .config (ssWord 7 5 7)]) :=
  ⟨by decide, ⟨_, rfl⟩, rfl, ⟨_, rfl⟩, rfl, ⟨_, rfl⟩, trivial⟩

/-- Two ALERT_READs on the port of a sampling block. -/
def sampling2 : State :=
  { sampling [ok 0x3E90, ok 0x7FF0] with program := List.replicate 2 0x9000000000000000 ++ [] }

theorem witness_ContinuousReadsNeedNoRetrigger :
    (sampling2.busy = false ∧ sampling2.phase = .continuous ∧
      sampling2.program = List.replicate 2 0x9000000000000000 ++ []) ∧
    EnvironmentDoes sampling2 ([(0x3E90 : Word16), 0x7FF0].map (.didRead .conversion)) :=
  ⟨by decide, rfl, rfl, trivial⟩
theorem witness_PhaseIsNeverConsulted : ∃ t, step (given armed 0x9000000000000000 [ok 5]) = .next t := ⟨_, rfl⟩
theorem witness_InvalidRegistersAreNeverRead :
    visible (fresh .v16 1) = visible { fresh .v16 1 with cfgCache := 0xFFFF, thrHi := 1, thrLo := 2 } ∧
    fresh .v16 1 ≠ { fresh .v16 1 with cfgCache := 0xFFFF, thrHi := 1, thrLo := 2 } ∧
    (∃ t, step (fresh .v16 1) = .next t) ∧
    (∃ t, step { fresh .v16 1 with cfgCache := 0xFFFF, thrHi := 1, thrLo := 2 } = .next t) :=
  ⟨by decide, by decide, ⟨_, rfl⟩, _, rfl⟩

end Sys2Proof.Tests
end

/-! PROOFS. The three writes of a start command when the environment does given accesses, and the CONVERSION_START
statements that follow from them (R117, R157). The lemmas about `startContinuous` are about any two words, so they serve
ALERT_START as well (R115). In their proofs `by exact` carries an answer of the environment over the records between two
writes: an answer depends on the ports and the bus address alone, and no record touches those. -/

namespace Sys2Proof.Machine

/-- A write that succeeds goes on. -/
theorem afterWrite_of_success {s : State} {reg : DevReg} {v d : Word16} (h : nextAnswer s (.write reg v) = .success d)
    (k : State → State) : afterWrite (memWrite s reg v) k = k (logAccess s (.wrote reg v)) := by
  rw [memWrite_of_success h, afterWrite]

/-- A write that fails ends the command with the adapter's error (R111, R156). -/
theorem afterWrite_of_failure {s : State} {reg : DevReg} {v : Word16} {e : TransportErr}
    (h : nextAnswer s (.write reg v) = .failure e) (k : State → State) :
    afterWrite (memWrite s reg v) k = raiseTransport (logAccess s (.writeFailed reg v e)) e := by
  rw [memWrite_of_failure h, afterWrite]

/-- The three writes that fail at the second: only the high threshold is recorded. -/
theorem startContinuous_of_low_fails {s : State} {hi w : Word16} {err : TransportErr}
    (h : EnvironmentDoes s [.wrote .highThreshold hi, .writeFailed .lowThreshold 0x0000 err]) :
    startContinuous s hi w = { afterAccesses s [.wrote .highThreshold hi, .writeFailed .lowThreshold 0x0000 err] with
      busy := false
      thrHi := hi, thrHiValid := true
      responses := s.responses ++ [⟨0x20000000, some err⟩] } := by
  obtain ⟨⟨d, hHigh⟩, hLow, -⟩ := h
  rw [startContinuous, afterWrite_of_success hHigh, afterWrite_of_failure (by exact hLow)]
  simp [afterAccesses_cons, raiseTransport, respond, recordHigh, logAccess]

/-- The three writes that fail at the third: both thresholds are recorded, the ConfigWord is not. -/
theorem startContinuous_of_config_fails {s : State} {hi w : Word16} {err : TransportErr}
    (h : EnvironmentDoes s [.wrote .highThreshold hi, .wrote .lowThreshold 0x0000, .writeFailed .config w err]) :
    startContinuous s hi w = { afterAccesses s
        [.wrote .highThreshold hi, .wrote .lowThreshold 0x0000, .writeFailed .config w err] with
      busy := false
      thrHi := hi, thrHiValid := true, thrLo := 0x0000, thrLoValid := true
      responses := s.responses ++ [⟨0x20000000, some err⟩] } := by
  obtain ⟨⟨d, hHigh⟩, ⟨d', hLow⟩, hConfig, -⟩ := h
  rw [startContinuous, afterWrite_of_success hHigh, afterWrite_of_success (by exact hLow), writeConfig,
    afterWrite_of_failure (by exact hConfig)]
  simp [afterAccesses_cons, raiseTransport, respond, recordHigh, recordLow, logAccess]

/-- The three writes that all succeed with a continuous word: all are recorded and the phase is Continuous. -/
theorem startContinuous_of_success {s : State} {hi w : Word16} (hw : w.getLsbD 8 = false)
    (h : EnvironmentDoes s [.wrote .highThreshold hi, .wrote .lowThreshold 0x0000, .wrote .config w]) :
    startContinuous s hi w = { afterAccesses s
        [.wrote .highThreshold hi, .wrote .lowThreshold 0x0000, .wrote .config w] with
      busy := false
      thrHi := hi, thrHiValid := true, thrLo := 0x0000, thrLoValid := true
      cfgCache := w, cfgValid := true, phase := .continuous
      responses := s.responses ++ [⟨0, none⟩] } := by
  obtain ⟨⟨d, hHigh⟩, ⟨d', hLow⟩, ⟨d'', hConfig⟩, -⟩ := h
  rw [startContinuous, afterWrite_of_success hHigh, afterWrite_of_success (by exact hLow), writeConfig,
    afterWrite_of_success (by exact hConfig), ← phaseAfterConfigWrite_of_clear hw]
  simp [afterAccesses_cons, finish, respond, recordHigh, recordLow, recordConfig, logAccess]

/-- CONVERSION_START with valid operands is the three writes with its two OPEN parameters (R117). -/
theorem exec_conversionStart_of_valid {s : State} {rate ch1 : Int} {ch2 : Option Int} {c : Int}
    (h : PrologueAnswers s rate ch1 ch2 c) :
    exec (.conversionStart rate ch1 ch2) s = .next (startContinuous s (Config.convstartHiRaw s.variant)
      (ceWord Config.cmpEvery c s.gainIndex rate)) := by
  obtain ⟨hRate, hPair, hGain⟩ := h
  rw [exec, execConversionStart, conversionStartWith, prepare_of_valid hRate hPair hGain,
    ← everyWord_eq Config.cmpEvery (inRange_of_mem_channelPairs hPair) hGain hRate]

end Sys2Proof.Machine

namespace Sys2Proof

open Sys2Proof.Machine

/-- Settles O46: all three writes succeed, and the CONVERSION_START word has its mode bit clear. -/
theorem conversionStartCompletes : Obligations.ConversionStartCompletes := by
  intro s rate ch1 ch2 c hRate hPair hGain hEnv
  have hMode := ceWord_mode Config.cmpEvery (inRange_of_mem_channelPairs hPair) hGain hRate
  rw [exec_conversionStart_of_valid ⟨hRate, hPair, hGain⟩, startContinuous_of_success hMode hEnv]

/-- Settles O56: one lemma about the three writes for each of the two failing writes. -/
theorem conversionStartFailureLeavesMixedState : Obligations.ConversionStartFailureLeavesMixedState := by
  intro s rate ch1 ch2 c err hRate hPair hGain
  rw [exec_conversionStart_of_valid ⟨hRate, hPair, hGain⟩]
  constructor
  · intro hEnv
    rw [startContinuous_of_low_fails hEnv]
  · intro hEnv
    rw [startContinuous_of_config_fails hEnv]

end Sys2Proof

/-! PROOFS. No end of a command or of a poll touches the three parameters of a handle (R20 to R23, D23). -/

namespace Sys2Proof.Machine

/-- The three parameters of a handle: variant, bus address, gain index (R21, R22, R23). -/
def handleParameters (s : State) : Variant × BitVec 7 × Int := (s.variant, s.busAddr, s.gainIndex)

theorem handleParameters_eq_iff {s t : State} : handleParameters t = handleParameters s ↔
    t.variant = s.variant ∧ t.busAddr = s.busAddr ∧ t.gainIndex = s.gainIndex := by
  simp [handleParameters]

theorem PollEnds.handleParameters_eq {s t : State} (h : PollEnds s t) : handleParameters t = handleParameters s := by
  cases h with
  | goesOn | sample | readFails | pollFails => simp [handleParameters]

theorem StartEnds.handleParameters_eq {hi w : Word16} {s t : State} (h : StartEnds hi w s t) :
    handleParameters t = handleParameters s := by
  cases h with
  | highFails | lowFails | configFails | started => simp [handleParameters]

/-- A command's own writes leave the parameters; the poll and the three writes are the shared sequences above. -/
theorem CommandEnds.handleParameters_eq {i : Instr} {s t : State} (h : CommandEnds i s t) :
    handleParameters t = handleParameters s := by
  cases h with
  | blockingPolls _ _ _ _ _ _ _ _ _ hPoll => exact hPoll.handleParameters_eq
  | alertStart _ _ _ _ _ _ _ _ _ hStart => exact hStart.handleParameters_eq
  | conversionStart _ _ _ _ _ _ _ hStart => exact hStart.handleParameters_eq
  | codec | invalid | blockingWriteFails | setConvFails | setConv | notPrimed | readRevReadFails | readRevWriteFails
  | readRev | alertReadFails | alertRead | writeRegisterFails | writeRegister | readRegisterFails | readRegister =>
    simp [handleParameters]

theorem step_handleParameters {s t : State} (h : step s = .next t) : handleParameters t = handleParameters s := by
  rcases step_cases s with ⟨-, hPoll⟩ | ⟨-, -, hWait⟩ | ⟨w, rest, e, -, -, -, hIllegal⟩ | ⟨w, rest, i, -, -, -, hRun⟩
  · obtain rfl : pollCompletion s = t := by simpa [hPoll] using h
    exact (pollCompletion_ends s).handleParameters_eq
  · obtain rfl : s = t := by simpa [hWait] using h
    rfl
  · obtain rfl : rejectIllegal (accept s rest) = t := by simpa [hIllegal] using h
    rfl
  · exact (ends_of_exec (hRun.symm.trans h)).handleParameters_eq

end Sys2Proof.Machine

namespace Sys2Proof

open Sys2Proof.Machine

/-- Settles O12, by cases on the ends of a step. -/
theorem handleConstantsNeverChange : Obligations.HandleConstantsNeverChange :=
  fun _ _ h => handleParameters_eq_iff.mp (step_handleParameters h)

end Sys2Proof

/-! PROOFS. What a step, a poll and a command do to the bookkeeping: the caches and the phase are the replay of the
accesses (R111), and each register that a command does not list stays as it was (R20). -/

namespace Sys2Proof.Machine

/-- A step ends as a poll, in waiting, with the answer to an illegal word, or as the command on the port. -/
theorem ends_of_step {s t : State} (h : step s = .next t) :
    (s.busy = true ∧ PollEnds s t) ∨ (s.busy = false ∧ t = s) ∨
    (∃ rest, s.busy = false ∧ t = respond (accept s rest) ⟨0x40000000, none⟩) ∨
    (∃ rest i, s.busy = false ∧ CommandEnds i (accept s rest) t) := by
  rcases step_cases s with ⟨hb, hPoll⟩ | ⟨hb, -, hWait⟩ | ⟨w, rest, e, hb, -, -, hIllegal⟩ |
    ⟨w, rest, i, hb, -, -, hRun⟩
  · obtain rfl : pollCompletion s = t := by simpa [hPoll] using h
    exact .inl ⟨hb, pollCompletion_ends s⟩
  · obtain rfl : s = t := by simpa [hWait] using h
    exact .inr (.inl ⟨hb, rfl⟩)
  · obtain rfl : rejectIllegal (accept s rest) = t := by simpa [hIllegal] using h
    exact .inr (.inr (.inl ⟨rest, hb, rfl⟩))
  · exact .inr (.inr (.inr ⟨rest, i, hb, ends_of_exec (hRun.symm.trans h)⟩))

theorem ends_of_busy_step {s t : State} (hb : s.busy = true) (h : step s = .next t) : PollEnds s t := by
  obtain rfl : pollCompletion s = t := by simpa [step_of_busy hb] using h
  exact pollCompletion_ends s

theorem step_of_empty_port {s : State} (hb : s.busy = false) (hp : s.program = []) : step s = .next s := by
  simp [step, fetch, hb, hp]

theorem step_of_illegal {s : State} {w : Word64} {rest : List Word64} {e : Illegal} (hb : s.busy = false)
    (hp : s.program = w :: rest) (hd : decode w = .error e) : step s = .next (rejectIllegal (accept s rest)) := by
  simp [step, fetch, hb, hp, hd]

/-! ### The bookkeeping as a fold over the accesses -/

@[simp] theorem replay_nil (b : Book) : replay b [] = b := rfl

@[simp] theorem replay_cons (b : Book) (e : Event) (es : List Event) :
    replay b (e :: es) = replay (recordEvent b e) es := rfl

@[simp] theorem bookOf_respond (s : State) (r : Response) : bookOf (respond s r) = bookOf s := rfl

@[simp] theorem bookOf_logAccess (s : State) (e : Event) : bookOf (logAccess s e) = bookOf s := rfl

@[simp] theorem bookOf_accept (s : State) (rest : List Word64) : bookOf (accept s rest) = bookOf s := rfl

/-- The record of a ConfigWord write is what the replay makes of that write (R24, R122). -/
@[simp] theorem bookOf_recordConfig (s : State) (w : Word16) :
    bookOf (recordConfig s w) = recordEvent (bookOf s) (.wrote .config w) := rfl

@[simp] theorem bookOf_recordHigh (s : State) (v : Word16) :
    bookOf (recordHigh s v) = recordEvent (bookOf s) (.wrote .highThreshold v) := rfl

@[simp] theorem bookOf_recordLow (s : State) (v : Word16) :
    bookOf (recordLow s v) = recordEvent (bookOf s) (.wrote .lowThreshold v) := rfl

/-- The record of a retrieval is what the replay makes of the read, whatever the read gave (R123). -/
theorem bookOf_recordRetrieval (s : State) (raw : Word16) :
    bookOf (recordRetrieval s) = recordEvent (bookOf s) (.didRead .conversion raw) :=
  congrArg (fun p => { bookOf s with phase := p }) (phaseAfterRetrieval_eq s.phase)

@[simp] theorem recordEvent_writeFailed (b : Book) (reg : DevReg) (v : Word16) (e : TransportErr) :
    recordEvent b (.writeFailed reg v e) = b := rfl

@[simp] theorem recordEvent_readFailed (b : Book) (reg : DevReg) (e : TransportErr) :
    recordEvent b (.readFailed reg e) = b := rfl

/-- A poll's read of register 1 records nothing (R124). -/
@[simp] theorem recordEvent_didRead_config (b : Book) (v : Word16) : recordEvent b (.didRead .config v) = b := rfl

/-- `t` comes from `s` by the accesses `evs`: they are what the trace has grown by, and the caches and the phase are
their replay. -/
structure Records (s t : State) (evs : List Event) : Prop where
  trace : t.trace = s.trace ++ accessesOf s evs
  book : bookOf t = replay (bookOf s) evs

/-- A poll records what it accesses, and it accesses register 1 first. -/
theorem PollEnds.records {s t : State} (h : PollEnds s t) :
    ∃ e evs, Records s t (e :: evs) ∧ requestOf e = .read .config := by
  cases h with
  | goesOn v => exact ⟨.didRead .config v, [], ⟨by simp, rfl⟩, rfl⟩
  | sample v raw =>
    exact ⟨.didRead .config v, [.didRead .conversion raw], ⟨by simp, by simp [bookOf_recordRetrieval _ raw]⟩, rfl⟩
  | readFails v e => exact ⟨.didRead .config v, [.readFailed .conversion e], ⟨by simp, by simp⟩, rfl⟩
  | pollFails e => exact ⟨.readFailed .config e, [], ⟨by simp, by simp⟩, rfl⟩

theorem StartEnds.records {hi w : Word16} {s t : State} (h : StartEnds hi w s t) : ∃ evs, Records s t evs := by
  cases h with
  | highFails e => exact ⟨[.writeFailed .highThreshold hi e], by simp, by simp⟩
  | lowFails _ e => exact ⟨[.wrote .highThreshold hi, .writeFailed .lowThreshold 0 e], by simp, by simp⟩
  | configFails _ _ e =>
    exact ⟨[.wrote .highThreshold hi, .wrote .lowThreshold 0, .writeFailed .config w e], by simp, by simp⟩
  | started =>
    exact ⟨[.wrote .highThreshold hi, .wrote .lowThreshold 0, .wrote .config w], by simp, by simp⟩

/-- A command that is not a raw access records what it accesses. -/
theorem CommandEnds.records {i : Instr} {s t : State} (h : CommandEnds i s t) (hi : isRaw i = false) :
    ∃ evs, Records s t evs := by
  cases h with
  | codec | invalid | notPrimed => exact ⟨[], by simp, by simp⟩
  | blockingWriteFails _ rate _ _ c e | setConvFails _ rate _ _ c e =>
    exact ⟨[.writeFailed .config (ssWord c s.gainIndex rate) e], by simp, by simp⟩
  | blockingPolls _ _ rate _ _ c _ _ _ hPoll =>
    obtain ⟨e, evs, ⟨hTrace, hBook⟩, -⟩ := hPoll.records
    exact ⟨.wrote .config (ssWord c s.gainIndex rate) :: e :: evs, by simp [hTrace, accessesOf], by simp [hBook]⟩
  | setConv _ rate _ _ c => exact ⟨[.wrote .config (ssWord c s.gainIndex rate)], by simp, by simp⟩
  | readRevReadFails _ e | alertReadFails _ e => exact ⟨[.readFailed .conversion e], by simp, by simp⟩
  | readRevWriteFails _ raw e =>
    exact ⟨[.didRead .conversion raw, .writeFailed .config (s.cfgCache ||| 0x8000) e], by simp,
      by simp [bookOf_recordRetrieval _ raw]⟩
  | readRev _ raw =>
    exact ⟨[.didRead .conversion raw, .wrote .config (s.cfgCache ||| 0x8000)], by simp,
      by simp [bookOf_recordRetrieval _ raw]⟩
  | alertRead _ raw => exact ⟨[.didRead .conversion raw], by simp, by simp [bookOf_recordRetrieval _ raw]⟩
  | alertStart _ _ _ _ _ _ _ _ _ hStart | conversionStart _ _ _ _ _ _ _ hStart => exact hStart.records
  | writeRegisterFails | writeRegister | readRegisterFails | readRegister => simp [isRaw] at hi

/-- A command's accesses stand at the end of the trace; the raw commands make one or none. -/
theorem CommandEnds.extends_trace {i : Instr} {s t : State} (h : CommandEnds i s t) :
    ∃ evs, t.trace = s.trace ++ accessesOf s evs := by
  cases hi : isRaw i with
  | false =>
    obtain ⟨evs, hRec⟩ := h.records hi
    exact ⟨evs, hRec.trace⟩
  | true =>
    cases h with
    | codec | invalid => exact ⟨[], by simp⟩
    | writeRegisterFails _ reg v e => exact ⟨[.writeFailed reg v e], rfl⟩
    | writeRegister _ reg v => exact ⟨[.wrote reg v], rfl⟩
    | readRegisterFails _ reg e => exact ⟨[.readFailed reg e], rfl⟩
    | readRegister _ reg v => exact ⟨[.didRead reg v], rfl⟩
    | _ => simp [isRaw] at hi

/-! ### What a command leaves alone -/

theorem PollEnds.program_eq {s t : State} (h : PollEnds s t) : t.program = s.program := by
  cases h with
  | goesOn | sample | readFails | pollFails => simp

theorem StartEnds.program_eq {hi w : Word16} {s t : State} (h : StartEnds hi w s t) : t.program = s.program := by
  cases h with
  | highFails | lowFails | configFails | started => simp

/-- No command takes a word from the port. -/
theorem CommandEnds.program_eq {i : Instr} {s t : State} (h : CommandEnds i s t) : t.program = s.program := by
  cases h with
  | blockingPolls _ _ _ _ _ _ _ _ _ hPoll => simpa using hPoll.program_eq
  | alertStart _ _ _ _ _ _ _ _ _ hStart | conversionStart _ _ _ _ _ _ _ hStart => exact hStart.program_eq
  | codec | invalid | blockingWriteFails | setConvFails | setConv | notPrimed | readRevReadFails | readRevWriteFails
  | readRev | alertReadFails | alertRead | writeRegisterFails | writeRegister | readRegisterFails | readRegister =>
    simp

/-- The cached word with its valid flag (R24). -/
def cachedConfig (s : State) : Word16 × Bool := (s.cfgCache, s.cfgValid)

/-- The two cached thresholds with their valid flags (R25). -/
def cachedThresholds (s : State) : (Word16 × Bool) × Word16 × Bool := ((s.thrHi, s.thrHiValid), s.thrLo, s.thrLoValid)

/-- Codec and raw access commands leave all registers of the handle alone (R96, R140, R141). -/
theorem CommandEnds.book_eq {i : Instr} {s t : State} (h : CommandEnds i s t)
    (hi : isCodec i = true ∨ isRaw i = true) : bookOf t = bookOf s := by
  cases h with
  | codec | invalid | writeRegisterFails | writeRegister | readRegisterFails | readRegister => simp
  | _ => simp [isCodec, isRaw] at hi

/-- ALERT_READ leaves the cached word alone (R116). -/
theorem CommandEnds.cachedConfig_eq_of_alertRead {s t : State} (h : CommandEnds .alertRead s t) :
    cachedConfig t = cachedConfig s := by
  cases h with
  | codec | invalid | alertReadFails | alertRead => simp [cachedConfig]

theorem PollEnds.cachedThresholds_eq {s t : State} (h : PollEnds s t) : cachedThresholds t = cachedThresholds s := by
  cases h with
  | goesOn | sample | readFails | pollFails => simp [cachedThresholds]

/-- Only the two start commands write the thresholds (R115, R117). -/
theorem CommandEnds.cachedThresholds_eq {i : Instr} {s t : State} (h : CommandEnds i s t)
    (hAlert : ∀ rate ch1 ch2 thr, i ≠ .alertStart rate ch1 ch2 thr)
    (hConv : ∀ rate ch1 ch2, i ≠ .conversionStart rate ch1 ch2) : cachedThresholds t = cachedThresholds s := by
  cases h with
  | blockingPolls _ _ _ _ _ _ _ _ _ hPoll => simpa [cachedThresholds] using hPoll.cachedThresholds_eq
  | alertStart => exact absurd rfl (hAlert _ _ _ _)
  | conversionStart => exact absurd rfl (hConv _ _ _)
  | codec | invalid | blockingWriteFails | setConvFails | setConv | notPrimed | readRevReadFails | readRevWriteFails
  | readRev | alertReadFails | alertRead | writeRegisterFails | writeRegister | readRegisterFails | readRegister =>
    simp [cachedThresholds]

end Sys2Proof.Machine

namespace Sys2Proof

open Sys2Proof.Machine

/-- Settles O6. -/
theorem stepRunsDecodedCommand : Obligations.StepRunsDecodedCommand :=
  fun _ _ _ _ hBusy hPort hDecode => step_of_decoded hBusy hPort hDecode

/-- Settles O7: an empty port, and a poll whose first access reads register 1. -/
theorem stepWithoutCommand : Obligations.StepWithoutCommand := by
  refine ⟨fun s hBusy hPort => step_of_empty_port hBusy hPort, fun s hBusy => ?_⟩
  have hEnds := pollCompletion_ends s
  obtain ⟨e, evs, hRec, hFirst⟩ := hEnds.records
  exact ⟨_, step_of_busy hBusy, hEnds.program_eq, e, evs, hRec.trace, hFirst⟩

/-- Settles O9: creation sets every register outright. -/
theorem handleCreationValues : Obligations.HandleCreationValues :=
  ⟨fun _ _ _ => ⟨rfl, rfl, rfl, rfl, rfl, rfl⟩, fun _ _ => rfl⟩

/-- Settles O13, by cases on the ends of a step. -/
theorem everyAccessIsAddressed : Obligations.EveryAccessIsAddressed := by
  intro s t h
  rcases ends_of_step h with ⟨-, hPoll⟩ | ⟨-, rfl⟩ | ⟨rest, -, rfl⟩ | ⟨rest, i, -, hCommand⟩
  · obtain ⟨e, evs, hRec, -⟩ := hPoll.records
    exact ⟨e :: evs, hRec.trace⟩
  · exact ⟨[], by simp⟩
  · exact ⟨[], by simp⟩
  · exact hCommand.extends_trace

/-- Settles O18: every end of a command that is not raw, and of a poll, records its accesses. -/
theorem bookkeepingIsReplayOfAccesses : Obligations.BookkeepingIsReplayOfAccesses := by
  constructor
  · intro i s t hRaw h
    obtain ⟨evs, hTrace, hBook⟩ := (ends_of_exec h).records hRaw
    exact ⟨evs, hTrace, hBook⟩
  · intro s t hBusy h
    obtain ⟨e, evs, ⟨hTrace, hBook⟩, -⟩ := (ends_of_busy_step hBusy h).records
    exact ⟨e :: evs, hTrace, hBook⟩

/-- Settles O20, register by register. -/
theorem onlyListedCommandsWriteState : Obligations.OnlyListedCommandsWriteState := by
  intro i s t h
  have hEnds := ends_of_exec h
  refine ⟨fun hi => ?_, fun hAlert hConv => ?_, fun hi => ?_, hEnds.program_eq⟩
  · rw [← or_assoc] at hi
    rcases hi with hi | rfl
    · exact ⟨congrArg Book.cfgCache (hEnds.book_eq hi), congrArg Book.cfgValid (hEnds.book_eq hi)⟩
    · simpa [cachedConfig] using hEnds.cachedConfig_eq_of_alertRead
  · simpa [cachedThresholds, and_assoc] using hEnds.cachedThresholds_eq hAlert hConv
  · exact congrArg Book.phase (hEnds.book_eq hi)

end Sys2Proof

/-! PROOFS. The block's invariant. While a command runs, busy is 1 in any phase (R27), so what every operation keeps is
the invariant without its clause on a busy block; each operation keeps it by one rule, and the end of a command or of a
poll gives the clause back: a response makes the block not busy, and a poll goes on only in the armed phase. -/

namespace Sys2Proof.Machine

/-! ### Responses as R84 lays them out -/

theorem valueResponse_wellFormed (v : Word16) : ResponseWellFormed (valueResponse v) := by
  have hHigh : ∀ lo len, 16 ≤ lo → (v.setWidth 32).extractLsb' lo len = 0 := by
    intro lo len hlo
    refine BitVec.eq_of_getLsbD_eq fun i _ => ?_
    simp [BitVec.getLsbD_of_ge v (lo + i) (by omega)]
  exact ⟨hHigh 16 8 (by decide), .inl ⟨hHigh 28 4 (by decide), hHigh 24 4 (by decide), rfl⟩⟩

theorem ok_wellFormed : ResponseWellFormed ⟨0, none⟩ := valueResponse_wellFormed 0

theorem causeResponse_wellFormed (c : Cause) : ResponseWellFormed (causeResponse c) := by
  cases c with
  | rateRange | channelRange | gainRange | thresholdRange | registerIndexRange => unfold ResponseWellFormed; decide

theorem transportError_wellFormed (e : TransportErr) : ResponseWellFormed ⟨0x20000000, some e⟩ :=
  ⟨by simp, .inr (.inr (.inl ⟨by simp, by simp, by simp, rfl⟩))⟩

theorem notPrimed_wellFormed : ResponseWellFormed ⟨0x31000000, none⟩ := by
  unfold ResponseWellFormed
  decide

theorem illegal_wellFormed : ResponseWellFormed ⟨0x40000000, none⟩ := by
  unfold ResponseWellFormed
  decide

/-! ### Words a controller command writes -/

/-- READ_REV replays the cached word with its start bit set, which is again a controller word (R114). -/
theorem controllerWord_withStartBit {g : Int} {w : Word16} (h : ControllerWord g w) :
    ControllerWord g (w ||| 0x8000) := by
  have hTwice : ∀ x : Word16, x ||| 0x8000 ||| 0x8000 = x ||| 0x8000 := fun x => by
    rw [BitVec.or_assoc, BitVec.or_self]
  obtain ⟨c, r, hc, hr, hg, rfl | rfl | rfl | rfl | rfl⟩ := h
  · exact ⟨c, r, hc, hr, hg, .inl (ssWord_start c g r)⟩
  · exact ⟨c, r, hc, hr, hg, .inr (.inr (.inl rfl))⟩
  · exact ⟨c, r, hc, hr, hg, .inr (.inr (.inl (hTwice _)))⟩
  · exact ⟨c, r, hc, hr, hg, .inr (.inr (.inr (.inr rfl)))⟩
  · exact ⟨c, r, hc, hr, hg, .inr (.inr (.inr (.inr (hTwice _))))⟩

/-! ### One rule per operation -/

/-- The invariant without its clause on a busy block. -/
def RunningInv (s : State) : Prop := BlockInv { s with busy := false }

theorem runningInv_of_blockInv {s : State} (h : BlockInv s) : RunningInv s :=
  { h with polling := nofun }

theorem RunningInv.blockInv {s : State} (h : RunningInv s) (hPolling : s.busy = true → s.phase = .singleShotArmed) :
    BlockInv s :=
  { h with polling := hPolling }

theorem RunningInv.after_accept {s : State} (h : RunningInv s) (rest : List Word64) : RunningInv (accept s rest) :=
  { h with }

theorem RunningInv.after_respond {s : State} (h : RunningInv s) {r : Response} (hr : ResponseWellFormed r) :
    BlockInv (respond s r) :=
  { h with
    answered := fun x hx => by
      rcases List.mem_append.mp hx with hOld | hNew
      · exact h.answered x hOld
      · rwa [List.mem_singleton.mp hNew] }

theorem RunningInv.after_logAccess {s : State} (h : RunningInv s) (e : Event) : RunningInv (logAccess s e) :=
  { h with
    addressed := fun x hx => by
      rcases List.mem_append.mp hx with hOld | hNew
      · exact h.addressed x hOld
      · obtain rfl := List.mem_singleton.mp hNew
        rfl }

/-- A retrieval takes an armed phase to Idle; the cached word stays a single-shot one, as Idle asks. -/
theorem RunningInv.after_recordRetrieval {s : State} (h : RunningInv s) : RunningInv (recordRetrieval s) := by
  have hEq := phaseAfterRetrieval_eq s.phase
  by_cases hArmed : s.phase = .singleShotArmed
  · have hIdle : phaseAfterRetrieval s.phase = .idle := by rw [hEq, if_pos hArmed]
    exact { h with
      polling := nofun
      armed := fun hp => nomatch hIdle.symm.trans hp
      continuous := fun hp => nomatch hIdle.symm.trans hp
      idle := fun _ _ => (h.armed hArmed).2 }
  · have hSame : phaseAfterRetrieval s.phase = s.phase := by rw [hEq, if_neg hArmed]
    exact { h with
      polling := nofun
      armed := fun hp => h.armed (hSame.symm.trans hp)
      continuous := fun hp => h.continuous (hSame.symm.trans hp)
      idle := fun hp => h.idle (hSame.symm.trans hp) }

/-- A controller word may be recorded; a continuous one only after the low threshold. -/
theorem RunningInv.after_recordConfig {s : State} (h : RunningInv s) {w : Word16} (hWord : ControllerWord s.gainIndex w)
    (hLow : w.getLsbD 8 = false → s.thrLoValid = true) : RunningInv (recordConfig s w) := by
  cases hMode : w.getLsbD 8 with
  | true =>
    have hPhase := phaseAfterConfigWrite_of_set hMode
    exact { h with
      polling := nofun
      cache := fun _ => hWord
      armed := fun _ => ⟨rfl, hMode⟩
      continuous := fun hp => nomatch hPhase.symm.trans hp
      idle := fun _ _ => hMode
      thresholdsFirst := fun _ => hLow }
  | false =>
    have hPhase := phaseAfterConfigWrite_of_clear hMode
    exact { h with
      polling := nofun
      cache := fun _ => hWord
      armed := fun hp => nomatch hPhase.symm.trans hp
      continuous := fun _ => ⟨rfl, hMode⟩
      idle := fun hp => nomatch hPhase.symm.trans hp
      thresholdsFirst := fun _ => hLow }

theorem RunningInv.after_recordHigh {s : State} (h : RunningInv s) {hi : Word16} (hHigh : ControllerHigh s.variant hi) :
    RunningInv (recordHigh s hi) :=
  { h with
    low := fun hv => ⟨(h.low hv).1, rfl⟩
    high := fun _ => hHigh }

theorem RunningInv.after_recordLow {s : State} (h : RunningInv s) (hHigh : s.thrHiValid = true) :
    RunningInv (recordLow s 0) :=
  { h with
    thresholdsFirst := fun _ _ => rfl
    low := fun _ => ⟨rfl, hHigh⟩ }

/-- The single-shot write of BLOCKING_READ and SET_CONV, whose word needs no threshold (R112, R113). -/
theorem RunningInv.after_writeSingleShot {s : State} (h : RunningInv s) {rate ch1 : Int} {ch2 : Option Int} {c : Int}
    (hp : PrologueAnswers s rate ch1 ch2 c) :
    RunningInv (recordConfig (logAccess s (.wrote .config (ssWord c s.gainIndex rate)))
      (ssWord c s.gainIndex rate)) := by
  obtain ⟨hRate, hPair, hGain⟩ := hp
  have hWord : ControllerWord s.gainIndex (ssWord c s.gainIndex rate) :=
    ⟨c, rate, inRange_of_mem_channelPairs hPair, hRate, hGain, .inl rfl⟩
  exact (h.after_logAccess _).after_recordConfig hWord fun hClear => nomatch (ssWord_mode c _ rate).symm.trans hClear

/-! ### The ends of a command and of a poll -/

/-- A poll of an armed block keeps the invariant: it answers, or goes on armed. -/
theorem PollEnds.keeps_inv {s t : State} (h : PollEnds s t) (hInv : RunningInv s)
    (hArmed : s.phase = .singleShotArmed) : BlockInv t := by
  cases h with
  | goesOn v => exact RunningInv.blockInv (hInv.after_logAccess _) fun _ => hArmed
  | sample v raw =>
    have hPoll := hInv.after_logAccess (.didRead .config v)
    have hRead := (hPoll.after_logAccess (.didRead .conversion raw)).after_recordRetrieval
    exact hRead.after_respond (valueResponse_wellFormed _)
  | readFails _ e => exact ((hInv.after_logAccess _).after_logAccess _).after_respond (transportError_wellFormed e)
  | pollFails e => exact (hInv.after_logAccess _).after_respond (transportError_wellFormed e)

/-- The three writes keep the invariant whether they stop or not: each threshold is valid before the next write. -/
theorem StartEnds.keeps_inv {hi w : Word16} {s t : State} (h : StartEnds hi w s t) (hInv : RunningInv s)
    (hHigh : ControllerHigh s.variant hi) (hWord : ControllerWord s.gainIndex w) : BlockInv t := by
  have afterHigh := (hInv.after_logAccess (.wrote .highThreshold hi)).after_recordHigh hHigh
  have afterLow := (afterHigh.after_logAccess (.wrote .lowThreshold 0)).after_recordLow rfl
  cases h with
  | highFails e => exact (hInv.after_logAccess _).after_respond (transportError_wellFormed e)
  | lowFails _ e => exact (afterHigh.after_logAccess _).after_respond (transportError_wellFormed e)
  | configFails _ _ e => exact (afterLow.after_logAccess _).after_respond (transportError_wellFormed e)
  | started =>
    exact ((afterLow.after_logAccess _).after_recordConfig hWord fun _ => rfl).after_respond ok_wellFormed

/-- Every end of a command has the invariant, busy bit included: it answered, or it is a poll that goes on armed. -/
theorem CommandEnds.keeps_inv {i : Instr} {s t : State} (h : CommandEnds i s t) (hInv : RunningInv s) :
    BlockInv t := by
  cases h with
  | codec _ _ v => exact hInv.after_respond (valueResponse_wellFormed v)
  | invalid _ _ c => exact hInv.after_respond (causeResponse_wellFormed c)
  | blockingPolls _ _ rate _ _ c _ hp _ hPoll =>
    exact hPoll.keeps_inv (hInv.after_writeSingleShot hp) (phaseAfterConfigWrite_of_set (ssWord_mode c _ rate))
  | setConv _ _ _ _ _ _ hp => exact (hInv.after_writeSingleShot hp).after_respond ok_wellFormed
  | notPrimed => exact hInv.after_respond notPrimed_wellFormed
  | readRevWriteFails _ raw e =>
    have hRead := (hInv.after_logAccess (.didRead .conversion raw)).after_recordRetrieval
    exact (hRead.after_logAccess _).after_respond (transportError_wellFormed e)
  | readRev _ raw _ hValid =>
    have hRead := (hInv.after_logAccess (.didRead .conversion raw)).after_recordRetrieval
    have hWord := controllerWord_withStartBit (hInv.cache hValid)
    have hLow (hClear : (withStartBit s.cfgCache).getLsbD 8 = false) : s.thrLoValid = true :=
      hInv.thresholdsFirst hValid ((withStartBit_mode s.cfgCache).symm.trans hClear)
    exact ((hRead.after_logAccess _).after_recordConfig hWord hLow).after_respond (valueResponse_wellFormed _)
  | alertStart _ _ rate _ _ thr c hp hk hStart =>
    obtain ⟨hRate, hPair, hGain⟩ := hp
    exact hStart.keeps_inv hInv (.inr ⟨_, hk, rfl⟩)
      ⟨c, rate, inRange_of_mem_channelPairs hPair, hRate, hGain, .inr (.inl rfl)⟩
  | conversionStart _ _ rate _ _ c hp hStart =>
    obtain ⟨hRate, hPair, hGain⟩ := hp
    exact hStart.keeps_inv hInv (.inl rfl)
      ⟨c, rate, inRange_of_mem_channelPairs hPair, hRate, hGain, .inr (.inr (.inr (.inl rfl)))⟩
  | alertRead => exact (hInv.after_logAccess _).after_recordRetrieval.after_respond (valueResponse_wellFormed _)
  | writeRegister => exact (hInv.after_logAccess _).after_respond ok_wellFormed
  | readRegister => exact (hInv.after_logAccess _).after_respond (valueResponse_wellFormed _)
  | blockingWriteFails _ _ _ _ _ e | setConvFails _ _ _ _ _ e | readRevReadFails _ e | alertReadFails _ e
  | writeRegisterFails _ _ _ e | readRegisterFails _ _ e =>
    exact (hInv.after_logAccess _).after_respond (transportError_wellFormed e)

theorem blockInv_create (v : Variant) (a : BitVec 7) (g : Int) : BlockInv (State.create v a g) where
  cache := nofun
  armed := nofun
  continuous := nofun
  idle := nofun
  thresholdsFirst := nofun
  low := nofun
  high := nofun
  polling := nofun
  addressed := nofun
  answered := nofun

end Sys2Proof.Machine

namespace Sys2Proof

open Sys2Proof.Machine

/-- Settles O10: a created handle has no valid cache, no access and no response. -/
theorem invariantAtCreation : Obligations.InvariantAtCreation :=
  ⟨blockInv_create _ _ _, blockInv_create⟩

/-- Settles O11, by cases on the ends of a step; each operation of an end keeps the invariant by its rule. -/
theorem stepKeepsInvariant : Obligations.StepKeepsInvariant := by
  intro s t hInv h
  rcases ends_of_step h with ⟨hBusy, hPoll⟩ | ⟨-, rfl⟩ | ⟨rest, -, rfl⟩ | ⟨rest, i, -, hCommand⟩
  · exact hPoll.keeps_inv (runningInv_of_blockInv hInv) (hInv.polling hBusy)
  · exact hInv
  · exact ((runningInv_of_blockInv hInv).after_accept rest).after_respond illegal_wellFormed
  · exact hCommand.keeps_inv ((runningInv_of_blockInv hInv).after_accept rest)

end Sys2Proof

/-! PROOFS. What a step cannot depend on. A relation between states that the operations keep, and that agrees on
whatever they consult, is kept by every step; two states that differ in the phase, and two that look alike from outside,
are related in this way (R26, R28, R125, U13). -/

namespace Sys2Proof.Machine

/-- What the operations and the commands can consult of a state: the cached word only where it is valid, the phase, the
thresholds and the responses not at all. -/
structure Consulted where
  variant : Variant
  busAddr : BitVec 7
  gainIndex : Int
  cfgValid : Bool
  cfgCache : Option Word16
  busy : Bool
  program : List Word64
  answers : List Answer
  trace : List Access

/-- What can be consulted of a state. -/
def consulted (s : State) : Consulted where
  variant := s.variant
  busAddr := s.busAddr
  gainIndex := s.gainIndex
  cfgValid := s.cfgValid
  cfgCache := ifValid s.cfgValid s.cfgCache
  busy := s.busy
  program := s.program
  answers := s.answers
  trace := s.trace

/-- The relation agrees on what can be consulted, and the operations keep it. -/
structure OpsCongruence (R : State → State → Prop) : Prop where
  consulted {s s' : State} : R s s' → consulted s' = consulted s
  accept {s s' : State} (rest : List Word64) : R s s' → R (accept s rest) (accept s' rest)
  pollOn {s s' : State} : R s s' → R { s with busy := true } { s' with busy := true }
  respond {s s' : State} (r : Response) : R s s' → R (respond s r) (respond s' r)
  logAccess {s s' : State} (e : Event) : R s s' → R (logAccess s e) (logAccess s' e)
  recordConfig {s s' : State} (w : Word16) : R s s' → R (recordConfig s w) (recordConfig s' w)
  recordHigh {s s' : State} (v : Word16) : R s s' → R (recordHigh s v) (recordHigh s' v)
  recordLow {s s' : State} (v : Word16) : R s s' → R (recordLow s v) (recordLow s' v)
  recordRetrieval {s s' : State} : R s s' → R (recordRetrieval s) (recordRetrieval s')

/-- Two outcomes are next states that stand in the relation. -/
def NextRelated (R : State → State → Prop) (o o' : Host.Outcome State Fault Refusal) : Prop :=
  ∃ t t', o = .next t ∧ o' = .next t' ∧ R t t'

section Congruence

variable {R : State → State → Prop} {s s' : State}

theorem NextRelated.of_next {t t' : State} (h : R t t') : NextRelated R (.next t) (.next t') := ⟨t, t', rfl, rfl, h⟩

variable (hR : OpsCongruence R) (h : R s s')
include hR h

/-! ### What related states agree on -/

theorem OpsCongruence.variant : s'.variant = s.variant := congrArg Consulted.variant (hR.consulted h)

theorem OpsCongruence.gainIndex : s'.gainIndex = s.gainIndex := congrArg Consulted.gainIndex (hR.consulted h)

theorem OpsCongruence.cfgValid : s'.cfgValid = s.cfgValid := congrArg Consulted.cfgValid (hR.consulted h)

theorem OpsCongruence.cfgCache (hv : s.cfgValid = true) : s'.cfgCache = s.cfgCache := by
  have hCache : ifValid s'.cfgValid s'.cfgCache = ifValid s.cfgValid s.cfgCache :=
    congrArg Consulted.cfgCache (hR.consulted h)
  simpa [ifValid, hR.cfgValid h, hv] using hCache

theorem OpsCongruence.busy : s'.busy = s.busy := congrArg Consulted.busy (hR.consulted h)

theorem OpsCongruence.program : s'.program = s.program := congrArg Consulted.program (hR.consulted h)

theorem OpsCongruence.nextAnswer_eq (q : Request) : nextAnswer s' q = nextAnswer s q :=
  nextAnswer_congr (congrArg Consulted.answers (hR.consulted h)) (congrArg Consulted.trace (hR.consulted h))
    (congrArg Consulted.busAddr (hR.consulted h)) q

/-! ### The accesses and the shared sequences -/

theorem OpsCongruence.afterRead (reg : DevReg) {k k' : Word16 → State → State}
    (hk : ∀ v, R (k v (Machine.logAccess s (.didRead reg v))) (k' v (Machine.logAccess s' (.didRead reg v)))) :
    R (afterRead (memRead s reg) k) (afterRead (memRead s' reg) k') := by
  have hq := hR.nextAnswer_eq h (.read reg)
  cases ha : nextAnswer s (.read reg) with
  | success v =>
    rw [memRead_of_success ha, memRead_of_success (hq.trans ha)]
    exact hk v
  | failure e =>
    rw [memRead_of_failure ha, memRead_of_failure (hq.trans ha)]
    exact hR.respond _ (hR.logAccess _ h)

theorem OpsCongruence.afterWrite (reg : DevReg) (v : Word16) {k k' : State → State}
    (hk : R (k (Machine.logAccess s (.wrote reg v))) (k' (Machine.logAccess s' (.wrote reg v)))) :
    R (afterWrite (memWrite s reg v) k) (afterWrite (memWrite s' reg v) k') := by
  have hq := hR.nextAnswer_eq h (.write reg v)
  cases ha : nextAnswer s (.write reg v) with
  | success d =>
    rw [memWrite_of_success ha, memWrite_of_success (hq.trans ha)]
    exact hk
  | failure e =>
    rw [memWrite_of_failure ha, memWrite_of_failure (hq.trans ha)]
    exact hR.respond _ (hR.logAccess _ h)

theorem OpsCongruence.deliverSample (raw : Word16) : R (deliverSample s raw) (deliverSample s' raw) := by
  rw [deliverSample_eq, deliverSample_eq, hR.variant h]
  exact hR.respond _ h

theorem OpsCongruence.pollCompletion : R (pollCompletion s) (pollCompletion s') := by
  refine hR.afterRead h .config fun v => ?_
  have hLog := hR.logAccess (.didRead .config v) h
  cases completionBit v with
  | true =>
    exact hR.afterRead hLog .conversion fun raw =>
      hR.deliverSample (hR.recordRetrieval (hR.logAccess _ hLog)) raw
  | false => exact hR.pollOn hLog

theorem OpsCongruence.startContinuous (hi w : Word16) : R (startContinuous s hi w) (startContinuous s' hi w) := by
  have hHigh := hR.recordHigh hi (hR.logAccess (.wrote .highThreshold hi) h)
  have hLow := hR.recordLow 0 (hR.logAccess (.wrote .lowThreshold 0) hHigh)
  have hConfig := hR.recordConfig w (hR.logAccess (.wrote .config w) hLow)
  exact hR.afterWrite h _ _ (hR.afterWrite hHigh _ _ (hR.afterWrite hLow _ _ (hR.respond _ hConfig)))

theorem OpsCongruence.prepare_eq (rate ch1 : Int) (ch2 : Option Int) :
    prepare s' rate ch1 ch2 = prepare s rate ch1 ch2 := by
  simp only [prepare, hR.gainIndex h]

/-! ### The commands and the step -/

theorem OpsCongruence.execReadRev : NextRelated R (execReadRev s) (execReadRev s') := by
  refine .of_next ?_
  rw [hR.cfgValid h]
  cases hv : s.cfgValid with
  | false => exact hR.respond _ h
  | true =>
    refine hR.afterRead h .conversion fun raw => ?_
    have hRead := hR.recordRetrieval (hR.logAccess (.didRead .conversion raw) h)
    dsimp only
    rw [hR.cfgCache hRead hv]
    exact hR.afterWrite hRead _ _ (hR.deliverSample (hR.recordConfig _ (hR.logAccess _ hRead)) raw)

/-- A command goes the same way from related states: its checks, its accesses and its response are of what the relation
agrees on. -/
theorem OpsCongruence.exec (i : Instr) : NextRelated R (exec i s) (exec i s') := by
  cases i with
  | encodeConfig mode rate chan gain cmp =>
    refine .of_next ?_
    cases encodeConfig mode rate chan gain cmp with
    | ok | error => exact hR.respond _ h
  | decodeConfig raw => exact .of_next (hR.respond _ h)
  | decodeSample raw => exact .of_next (hR.deliverSample h raw)
  | encodeThreshold value =>
    refine .of_next ?_
    rw [hR.variant h]
    cases encodeThreshold s.variant value with
    | ok | error => exact hR.respond _ h
  | blockingRead rate ch1 ch2 =>
    refine .of_next ?_
    rw [hR.prepare_eq h, hR.gainIndex h]
    cases prepare s rate ch1 ch2 with
    | error c => exact hR.respond _ h
    | ok c => exact hR.afterWrite h _ _ (hR.pollCompletion (hR.recordConfig _ (hR.logAccess _ h)))
  | setConv rate ch1 ch2 =>
    refine .of_next ?_
    rw [hR.prepare_eq h, hR.gainIndex h]
    cases prepare s rate ch1 ch2 with
    | error c => exact hR.respond _ h
    | ok c => exact hR.afterWrite h _ _ (hR.respond _ (hR.recordConfig _ (hR.logAccess _ h)))
  | readRev => exact hR.execReadRev h
  | alertStart rate ch1 ch2 thr =>
    refine .of_next ?_
    rw [hR.prepare_eq h, hR.gainIndex h, hR.variant h]
    cases prepare s rate ch1 ch2 with
    | error c => exact hR.respond _ h
    | ok c =>
      cases encodeThreshold s.variant (thr.getD (maxThr s.variant)) with
      | error e => exact hR.respond _ h
      | ok hi => exact hR.startContinuous h _ _
  | alertRead =>
    exact .of_next (hR.afterRead h _ fun raw => hR.deliverSample (hR.recordRetrieval (hR.logAccess _ h)) raw)
  | conversionStart rate ch1 ch2 =>
    refine .of_next ?_
    rw [conversionStartWith, conversionStartWith, hR.prepare_eq h, hR.gainIndex h, hR.variant h]
    cases prepare s rate ch1 ch2 with
    | error c => exact hR.respond _ h
    | ok c => exact hR.startContinuous h _ _
  | writeRegister idx value =>
    refine .of_next ?_
    cases registerOf idx with
    | error c => exact hR.respond _ h
    | ok reg => exact hR.afterWrite h _ _ (hR.respond _ (hR.logAccess _ h))
  | readRegister idx =>
    refine .of_next ?_
    cases registerOf idx with
    | error c => exact hR.respond _ h
    | ok reg => exact hR.afterRead h _ fun v => hR.respond _ (hR.logAccess _ h)

/-- Related states poll, wait, answer an illegal word or run a command together. -/
theorem OpsCongruence.step : NextRelated R (step s) (step s') := by
  rcases step_cases s with ⟨hb, hPoll⟩ | ⟨hb, hp, hWait⟩ | ⟨w, rest, e, hb, hp, hd, hIllegal⟩ |
    ⟨w, rest, i, hb, hp, hd, hRun⟩
  · rw [hPoll, step_of_busy ((hR.busy h).trans hb)]
    exact .of_next (hR.pollCompletion h)
  · rw [hWait, step_of_empty_port ((hR.busy h).trans hb) ((hR.program h).trans hp)]
    exact .of_next h
  · rw [hIllegal, step_of_illegal ((hR.busy h).trans hb) ((hR.program h).trans hp) hd]
    exact .of_next (hR.respond _ (hR.accept rest h))
  · rw [hRun, step_of_decoded ((hR.busy h).trans hb) ((hR.program h).trans hp) hd]
    exact hR.exec (hR.accept rest h) i

end Congruence

/-! ### The two relations -/

/-- The states differ in the phase at most. -/
def DifferInPhase (s s' : State) : Prop := ∃ p : Phase, s' = { s with phase := p }

theorem differInPhase_congruence : OpsCongruence DifferInPhase where
  consulted := by rintro s _ ⟨p, rfl⟩; rfl
  accept := by rintro s _ rest ⟨p, rfl⟩; exact ⟨p, rfl⟩
  pollOn := by rintro s _ ⟨p, rfl⟩; exact ⟨p, rfl⟩
  respond := by rintro s _ r ⟨p, rfl⟩; exact ⟨p, rfl⟩
  logAccess := by rintro s _ e ⟨p, rfl⟩; exact ⟨p, rfl⟩
  recordConfig := by rintro s _ w ⟨p, rfl⟩; exact ⟨phaseAfterConfigWrite w, rfl⟩
  recordHigh := by rintro s _ v ⟨p, rfl⟩; exact ⟨p, rfl⟩
  recordLow := by rintro s _ v ⟨p, rfl⟩; exact ⟨p, rfl⟩
  recordRetrieval := by rintro s _ ⟨p, rfl⟩; exact ⟨phaseAfterRetrieval p, rfl⟩

/-! ### What the outside sees of an operation: a function of what it saw before -/

theorem visible_accept (s : State) (rest : List Word64) : visible (accept s rest) =
    { visible s with program := rest, status := { (visible s).status with busy := true } } := rfl

theorem visible_pollOn (s : State) : visible { s with busy := true } =
    { visible s with status := { (visible s).status with busy := true } } := rfl

theorem visible_respond (s : State) (r : Response) : visible (respond s r) = { visible s with
    responses := (visible s).responses ++ [r], status := { (visible s).status with busy := false } } := rfl

theorem visible_logAccess (s : State) (e : Event) : visible (logAccess s e) = { visible s with
    answers := (visible s).answers.tail, trace := (visible s).trace ++ [⟨(visible s).busAddr, e⟩] } := rfl

theorem visible_recordConfig (s : State) (w : Word16) : visible (recordConfig s w) = { visible s with
    status := { (visible s).status with
      cfgValid := true, cfgCache := some w, phase := phaseAfterConfigWrite w } } := rfl

theorem visible_recordHigh (s : State) (v : Word16) : visible (recordHigh s v) = { visible s with
    status := { (visible s).status with thrHiValid := true, thrHi := some v } } := rfl

theorem visible_recordLow (s : State) (v : Word16) : visible (recordLow s v) = { visible s with
    status := { (visible s).status with thrLoValid := true, thrLo := some v } } := rfl

theorem visible_recordRetrieval (s : State) : visible (recordRetrieval s) = { visible s with
    status := { (visible s).status with phase := phaseAfterRetrieval (visible s).status.phase } } := rfl

/-- What a command can consult, read off what the outside sees. -/
theorem consulted_eq_of_visible (s : State) : consulted s =
    ⟨(visible s).variant, (visible s).busAddr, (visible s).gainIndex, (visible s).status.cfgValid,
      (visible s).status.cfgCache, (visible s).status.busy, (visible s).program, (visible s).answers,
      (visible s).trace⟩ := rfl

/-- The states look alike from outside: the valid registers, the constants and the ports agree (R28). -/
abbrev LookAlike (s s' : State) : Prop := visible s = visible s'

theorem lookAlike_congruence : OpsCongruence LookAlike where
  consulted h := by rw [consulted_eq_of_visible, consulted_eq_of_visible, h]
  accept rest h := by simp only [LookAlike, visible_accept, h]
  pollOn h := by simp only [LookAlike, visible_pollOn, h]
  respond r h := by simp only [LookAlike, visible_respond, h]
  logAccess e h := by simp only [LookAlike, visible_logAccess, h]
  recordConfig w h := by simp only [LookAlike, visible_recordConfig, h]
  recordHigh v h := by simp only [LookAlike, visible_recordHigh, h]
  recordLow v h := by simp only [LookAlike, visible_recordLow, h]
  recordRetrieval h := by simp only [LookAlike, visible_recordRetrieval, h]

end Sys2Proof.Machine

namespace Sys2Proof

open Sys2Proof.Machine

/-- Settles O54: states that differ in the phase at most step to states that do. -/
theorem phaseIsNeverConsulted : Obligations.PhaseIsNeverConsulted := by
  intro s t p hStep
  obtain ⟨u, u', hu, hu', q, rfl⟩ := differInPhase_congruence.step (s := s) ⟨p, rfl⟩
  cases hStep.symm.trans hu
  exact ⟨q, hu'⟩

/-- Settles O55: states that look alike step to states that look alike. -/
theorem invalidRegistersAreNeverRead : Obligations.InvalidRegistersAreNeverRead := by
  intro s₁ s₂ t₁ t₂ hAlike h₁ h₂
  obtain ⟨u₁, u₂, hu₁, hu₂, hNext⟩ := lookAlike_congruence.step hAlike
  cases h₁.symm.trans hu₁
  cases h₂.symm.trans hu₂
  exact hNext

end Sys2Proof

/-! PROOFS. The two codec commands whose result depends on the variant, and the variant profile (R21, R94, R95). -/

namespace Sys2Proof.Machine

/-- The samples of the 16-bit variant: a sample is its own raw word. -/
theorem exists_sampleOf_v16 (i : Int) : (∃ raw, sampleOf .v16 raw = i) ↔ -32768 ≤ i ∧ i ≤ 32767 := by
  constructor
  · rintro ⟨raw, rfl⟩
    have hLow := BitVec.le_toInt raw
    have hHigh := BitVec.toInt_lt (x := raw)
    simp only [sampleOf]
    omega
  · rintro ⟨hLow, hHigh⟩
    refine ⟨BitVec.ofInt 16 i, ?_⟩
    simp only [sampleOf, BitVec.toInt_ofInt]
    exact Int.bmod_eq_of_le (by omega) (by omega)

/-- The samples of the 12-bit variant: the raw word of a sample is 16 times it, rounded up by less than 16. -/
theorem exists_sampleOf_v12 (i : Int) : (∃ raw, sampleOf .v12 raw = i) ↔ -2048 ≤ i ∧ i ≤ 2047 := by
  constructor
  · rintro ⟨raw, rfl⟩
    have hLow := BitVec.le_toInt raw
    have hHigh := BitVec.toInt_lt (x := raw)
    simp only [sampleOf]
    omega
  · rintro ⟨hLow, hHigh⟩
    obtain ⟨raw, hRaw⟩ := (exists_sampleOf_v16 (16 * i)).mpr (by omega)
    refine ⟨raw, ?_⟩
    simp only [sampleOf] at hRaw ⊢
    omega

end Sys2Proof.Machine

namespace Sys2Proof

open Sys2Proof.Machine

/-- Settles O33: the delivered sample is the floor division of R94. -/
theorem decodeSampleCompletes : Obligations.DecodeSampleCompletes :=
  fun raw s => congrArg _ (deliverSample_eq s raw)

/-- Settles O34: a threshold in range passes the check, and the result is its raw form. -/
theorem encodeThresholdCompletes : Obligations.EncodeThresholdCompletes := by
  intro value s hRange
  rw [exec, execEncodeThreshold, encodeThreshold_of_valid hRange, ← okResponse_eq]
  rfl

/-- Settles O38: the two variants, the range of each variant's samples, and that no step changes the variant. -/
theorem variantProfileAndSampleRange : Obligations.VariantProfileAndSampleRange := by
  refine ⟨by decide, by decide, fun v => ⟨rfl, rfl⟩, fun i => ?_, fun i => ?_, fun s t h => ?_⟩
  · simpa only [decodeSample_eq] using exists_sampleOf_v12 i
  · simpa only [decodeSample_eq] using exists_sampleOf_v16 i
  · exact (handleConstantsNeverChange s t h).1

end Sys2Proof

/-! PROOFS. The requests of a command. A command plans them from its operands and the handle before it makes the first:
its row of R48 with the words in it. It then makes them in order up to the first that fails (R111), or it is rejected
before the first. What a command can send to a register is read off its plan. -/

namespace Sys2Proof.Machine

/-! ### Plans -/

/-- The requests of a command, in order, when none fails and the command is not rejected; BLOCKING_READ with one poll,
as its own step makes it (log 2). -/
inductive RequestPlan (s : State) : Instr → List Request → Prop where
  | codec {i : Instr} (hi : isCodec i = true) : RequestPlan s i []
  | blockingRead {rate ch1 : Int} {ch2 : Option Int} {c : Int} (hp : PrologueAnswers s rate ch1 ch2 c) :
    RequestPlan s (.blockingRead rate ch1 ch2)
      [.write .config (ssWord c s.gainIndex rate), .read .config, .read .conversion]
  | setConv {rate ch1 : Int} {ch2 : Option Int} {c : Int} (hp : PrologueAnswers s rate ch1 ch2 c) :
    RequestPlan s (.setConv rate ch1 ch2) [.write .config (ssWord c s.gainIndex rate)]
  | readRev (hv : s.cfgValid = true) :
    RequestPlan s .readRev [.read .conversion, .write .config (s.cfgCache ||| 0x8000)]
  | alertStart {rate ch1 : Int} {ch2 thr : Option Int} {c : Int} (hp : PrologueAnswers s rate ch1 ch2 c)
    (hk : InRange 0 (largestThreshold s.variant) (thr.getD (largestThreshold s.variant))) :
    RequestPlan s (.alertStart rate ch1 ch2 thr)
      [.write .highThreshold (thresholdWord s.variant (thr.getD (largestThreshold s.variant))),
        .write .lowThreshold 0, .write .config (caWord c s.gainIndex rate)]
  | alertRead : RequestPlan s .alertRead [.read .conversion]
  | conversionStart {rate ch1 : Int} {ch2 : Option Int} {c : Int} (hp : PrologueAnswers s rate ch1 ch2 c) :
    RequestPlan s (.conversionStart rate ch1 ch2)
      [.write .highThreshold (Config.convstartHiRaw s.variant), .write .lowThreshold 0,
        .write .config (ceWord Config.cmpEvery c s.gainIndex rate)]
  | writeRegister (reg : DevReg) (v : Word16) : RequestPlan s (.writeRegister (registerNumber reg) v) [.write reg v]
  | readRegister (reg : DevReg) : RequestPlan s (.readRegister (registerNumber reg)) [.read reg]

/-- A plan has the kinds of the command's row of R48. -/
theorem RequestPlan.map_kindOf {s : State} {i : Instr} {qs : List Request} (h : RequestPlan s i qs) :
    qs.map kindOf = accessMatrix i := by
  cases h with
  | codec hi =>
    cases i with
    | encodeConfig | decodeConfig | decodeSample | encodeThreshold => rfl
    | _ => simp [isCodec] at hi
  | blockingRead | setConv | readRev | alertStart | alertRead | conversionStart => rfl
  | writeRegister reg | readRegister reg => cases reg <;> rfl

/-- Only a raw write plans to write register 0 (R42). -/
theorem RequestPlan.write_conversion_not_mem {s : State} {i : Instr} {qs : List Request} (h : RequestPlan s i qs)
    (hRaw : isRaw i = false) (v : Word16) : .write .conversion v ∉ qs := by
  cases h with
  | codec | blockingRead | setConv | readRev | alertStart | alertRead | conversionStart => simp
  | writeRegister | readRegister => simp [isRaw] at hRaw

/-- The words that a command which is not a raw access plans to write to register 1 (R69, R114). -/
theorem RequestPlan.config_word {s : State} {i : Instr} {qs : List Request} {w : Word16} (h : RequestPlan s i qs)
    (hRaw : isRaw i = false) (hw : .write .config w ∈ qs) :
    (i = .readRev ∧ w = s.cfgCache ||| 0x8000) ∨
    ∃ c r : Int, InRange 0 7 c ∧ InRange 0 7 r ∧ InRange 0 5 s.gainIndex ∧
      (w = ssWord c s.gainIndex r ∨ w = caWord c s.gainIndex r ∨ w = ceWord Config.cmpEvery c s.gainIndex r) := by
  cases h with
  | codec | alertRead => simp at hw
  | readRev => exact .inl ⟨rfl, by simpa using hw⟩
  | @blockingRead rate _ _ c hp | @setConv rate _ _ c hp =>
    obtain ⟨hRate, hPair, hGain⟩ := hp
    exact .inr ⟨c, rate, inRange_of_mem_channelPairs hPair, hRate, hGain, .inl (by simpa using hw)⟩
  | @alertStart rate _ _ _ c hp =>
    obtain ⟨hRate, hPair, hGain⟩ := hp
    exact .inr ⟨c, rate, inRange_of_mem_channelPairs hPair, hRate, hGain, .inr (.inl (by simpa using hw))⟩
  | @conversionStart rate _ _ c hp =>
    obtain ⟨hRate, hPair, hGain⟩ := hp
    exact .inr ⟨c, rate, inRange_of_mem_channelPairs hPair, hRate, hGain, .inr (.inr (by simpa using hw))⟩
  | writeRegister | readRegister => simp [isRaw] at hRaw

/-! ### How a plan is carried out -/

/-- The status of a response is not OK (R84). -/
def NotOk (r : Response) : Prop := r.rsp.extractLsb' 28 4 ≠ 0

theorem notOk_transport (e : TransportErr) : NotOk ⟨0x20000000, some e⟩ := by simp [NotOk]

theorem notOk_notPrimed : NotOk ⟨0x31000000, none⟩ := by simp [NotOk]

theorem notOk_cause (c : Cause) : NotOk (causeResponse c) := by
  unfold NotOk
  cases c <;> decide

/-- `t` comes from `s` by the accesses `evs`, which make the requests `qs` in order: none before the last fails, and
when the one response since is OK, all are made. -/
structure CarriesOut (qs : List Request) (s t : State) (evs : List Event) : Prop where
  trace : t.trace = s.trace ++ accessesOf s evs
  order : evs.map requestOf <+: qs
  stops : ∀ e ∈ evs.dropLast, failureOf e = none
  completes : ∀ r, t.responses = s.responses ++ [r] → ¬ NotOk r → evs.map requestOf = qs

/-- All requests are made. -/
theorem CarriesOut.of_all {qs : List Request} {s t : State} {evs : List Event}
    (hTrace : t.trace = s.trace ++ accessesOf s evs) (hAll : evs.map requestOf = qs)
    (hStops : ∀ e ∈ evs.dropLast, failureOf e = none) : CarriesOut qs s t evs :=
  ⟨hTrace, by rw [hAll], hStops, fun _ _ _ => hAll⟩

/-- An access fails: the later requests are not made and the response is a TransportError (R111, R156). -/
theorem CarriesOut.of_failure {qs : List Request} {s t : State} {evs : List Event} {err : TransportErr}
    (hTrace : t.trace = s.trace ++ accessesOf s evs) (hOrder : evs.map requestOf <+: qs)
    (hStops : ∀ e ∈ evs.dropLast, failureOf e = none)
    (hResponse : t.responses = s.responses ++ [⟨0x20000000, some err⟩]) : CarriesOut qs s t evs := by
  refine ⟨hTrace, hOrder, hStops, fun r hr hOk => absurd ?_ hOk⟩
  obtain rfl : (⟨0x20000000, some err⟩ : Response) = r := by simpa [hResponse] using hr
  exact notOk_transport err

/-- A successful first access `e` leads to `s1`, from where the other requests are carried out. -/
theorem CarriesOut.cons {qs : List Request} {s s1 t : State} {e : Event} {evs : List Event}
    (h : CarriesOut qs s1 t evs) (he : failureOf e = none) (hTrace : s1.trace = s.trace ++ [⟨s.busAddr, e⟩])
    (hAddr : s1.busAddr = s.busAddr) (hResponses : s1.responses = s.responses) :
    CarriesOut (requestOf e :: qs) s t (e :: evs) where
  trace := by simp [h.trace, hTrace, accessesOf, hAddr]
  order := by simpa using h.order
  stops := by
    cases evs with
    | nil => simp
    | cons e' es => simpa [he] using h.stops
  completes r hr hOk := by rw [List.map_cons, h.completes r (hResponses ▸ hr) hOk]

/-- A poll carries out its two reads; one that goes on polling has given no response (R112, R164). -/
theorem PollEnds.carriesOut {s t : State} (h : PollEnds s t) :
    ∃ evs, CarriesOut [.read .config, .read .conversion] s t evs := by
  cases h with
  | goesOn v => exact ⟨[.didRead .config v], by simp, ⟨[.read .conversion], rfl⟩, by simp, fun r hr => by simp at hr⟩
  | sample v raw =>
    exact ⟨[.didRead .config v, .didRead .conversion raw], .of_all (by simp) rfl (by simp [failureOf])⟩
  | readFails v e =>
    exact ⟨[.didRead .config v, .readFailed .conversion e], .of_all (by simp) rfl (by simp [failureOf])⟩
  | pollFails e => exact ⟨[.readFailed .config e], .of_failure (by simp) ⟨[.read .conversion], rfl⟩ (by simp) rfl⟩

/-- The three writes of the start commands (R115, R117). -/
theorem StartEnds.carriesOut {hi w : Word16} {s t : State} (h : StartEnds hi w s t) :
    ∃ evs, CarriesOut [.write .highThreshold hi, .write .lowThreshold 0, .write .config w] s t evs := by
  cases h with
  | highFails e =>
    exact ⟨[.writeFailed .highThreshold hi e],
      .of_failure (by simp) ⟨[.write .lowThreshold 0, .write .config w], rfl⟩ (by simp) rfl⟩
  | lowFails _ e =>
    exact ⟨[.wrote .highThreshold hi, .writeFailed .lowThreshold 0 e],
      .of_failure (by simp) ⟨[.write .config w], rfl⟩ (by simp [failureOf]) rfl⟩
  | configFails _ _ e =>
    exact ⟨[.wrote .highThreshold hi, .wrote .lowThreshold 0, .writeFailed .config w e],
      .of_all (by simp) rfl (by simp [failureOf])⟩
  | started =>
    exact ⟨[.wrote .highThreshold hi, .wrote .lowThreshold 0, .wrote .config w],
      .of_all (by simp) rfl (by simp [failureOf])⟩

/-- `t` is `s` after the end of a command that has made no access and is not answered OK (R152, R161). -/
def Rejected (s t : State) : Prop := ∃ r, t = respond s r ∧ NotOk r

/-- A command is rejected, or it carries out its plan. -/
theorem CommandEnds.rejected_or_carriesOut {i : Instr} {s t : State} (h : CommandEnds i s t) :
    Rejected s t ∨ ∃ qs evs, RequestPlan s i qs ∧ CarriesOut qs s t evs := by
  cases h with
  | invalid _ _ c => exact .inl ⟨_, rfl, notOk_cause c⟩
  | notPrimed => exact .inl ⟨_, rfl, notOk_notPrimed⟩
  | codec _ _ _ hi => exact .inr ⟨_, [], .codec hi, .of_all (by simp) rfl (by simp)⟩
  | blockingWriteFails _ rate _ _ c e hp =>
    exact .inr ⟨_, [.writeFailed .config (ssWord c s.gainIndex rate) e], .blockingRead hp,
      .of_failure (by simp) ⟨[.read .config, .read .conversion], rfl⟩ (by simp) rfl⟩
  | blockingPolls _ _ rate _ _ c _ hp _ hPoll =>
    obtain ⟨evs, hEvs⟩ := hPoll.carriesOut
    exact .inr ⟨_, .wrote .config (ssWord c s.gainIndex rate) :: evs, .blockingRead hp,
      hEvs.cons (e := .wrote .config _) rfl rfl rfl rfl⟩
  | setConvFails _ rate _ _ c e hp =>
    exact .inr ⟨_, [.writeFailed .config (ssWord c s.gainIndex rate) e], .setConv hp,
      .of_all (by simp) rfl (by simp)⟩
  | setConv _ rate _ _ c _ hp =>
    exact .inr ⟨_, [.wrote .config (ssWord c s.gainIndex rate)], .setConv hp, .of_all (by simp) rfl (by simp)⟩
  | readRevReadFails _ e hv =>
    exact .inr ⟨_, [.readFailed .conversion e], .readRev hv,
      .of_failure (by simp) ⟨[.write .config (s.cfgCache ||| 0x8000)], rfl⟩ (by simp) rfl⟩
  | readRevWriteFails _ raw e hv =>
    exact .inr ⟨_, [.didRead .conversion raw, .writeFailed .config (s.cfgCache ||| 0x8000) e], .readRev hv,
      .of_all (by simp) rfl (by simp [failureOf])⟩
  | readRev _ raw _ hv =>
    exact .inr ⟨_, [.didRead .conversion raw, .wrote .config (s.cfgCache ||| 0x8000)], .readRev hv,
      .of_all (by simp) rfl (by simp [failureOf])⟩
  | alertStart _ _ _ _ _ _ _ hp hk hStart =>
    obtain ⟨evs, hEvs⟩ := hStart.carriesOut
    exact .inr ⟨_, evs, .alertStart hp hk, hEvs⟩
  | alertReadFails _ e => exact .inr ⟨_, [.readFailed .conversion e], .alertRead, .of_all (by simp) rfl (by simp)⟩
  | alertRead _ raw => exact .inr ⟨_, [.didRead .conversion raw], .alertRead, .of_all (by simp) rfl (by simp)⟩
  | conversionStart _ _ _ _ _ _ hp hStart =>
    obtain ⟨evs, hEvs⟩ := hStart.carriesOut
    exact .inr ⟨_, evs, .conversionStart hp, hEvs⟩
  | writeRegisterFails _ reg v e =>
    exact .inr ⟨_, [.writeFailed reg v e], .writeRegister reg v, .of_all (by simp) rfl (by simp)⟩
  | writeRegister _ reg v => exact .inr ⟨_, [.wrote reg v], .writeRegister reg v, .of_all (by simp) rfl (by simp)⟩
  | readRegisterFails _ reg e =>
    exact .inr ⟨_, [.readFailed reg e], .readRegister reg, .of_all (by simp) rfl (by simp)⟩
  | readRegister _ reg v => exact .inr ⟨_, [.didRead reg v], .readRegister reg, .of_all (by simp) rfl (by simp)⟩

/-- Every access of a command makes a request of its plan. -/
theorem CommandEnds.request_mem_plan {i : Instr} {s t : State} (h : CommandEnds i s t) {evs : List Event}
    (hTrace : t.trace = s.trace ++ accessesOf s evs) {e : Event} (he : e ∈ evs) :
    ∃ qs, RequestPlan s i qs ∧ requestOf e ∈ qs := by
  rcases h.rejected_or_carriesOut with ⟨r, rfl, -⟩ | ⟨qs, evs', hPlan, hCarries⟩
  · obtain rfl : evs = [] := by simpa [accessesOf] using hTrace
    simp at he
  · obtain rfl : evs = evs' := accessesOf_injective s (by simpa [hCarries.trace] using hTrace.symm)
    exact ⟨qs, hPlan, hCarries.order.subset (List.mem_map_of_mem he)⟩

end Sys2Proof.Machine

namespace Sys2Proof

open Sys2Proof.Machine

/-- Settles O14: a rejected command makes no access and is not answered OK, every other carries out its plan, whose
kinds are its row of R48. -/
theorem commandFollowsAccessMatrix : Obligations.CommandFollowsAccessMatrix := by
  intro i s t h
  rcases (ends_of_exec h).rejected_or_carriesOut with ⟨r, rfl, hNotOk⟩ | ⟨qs, evs, hPlan, hCarries⟩
  · refine ⟨[], by simp, by simp, by simp, fun r' hr hOk => absurd hOk ?_⟩
    obtain rfl : r = r' := by simpa using hr
    exact hNotOk
  · have hKinds : (evs.map fun e => kindOf (requestOf e)) = (evs.map requestOf).map kindOf := by simp
    refine ⟨evs, hCarries.trace, ?_, hCarries.stops, fun r hr hOk => ?_⟩
    · rw [hKinds, ← hPlan.map_kindOf]
      exact hCarries.order.map kindOf
    · rw [hKinds, hCarries.completes r hr (not_not_intro hOk), hPlan.map_kindOf]

/-- Settles O22: a request that is sent is a request of the command's plan. -/
theorem configWritesOfController : Obligations.ConfigWritesOfController := by
  intro i s t evs hRaw h hTrace e he
  obtain ⟨qs, hPlan, hMem⟩ := (ends_of_exec h).request_mem_plan hTrace he
  exact ⟨fun v hv => hPlan.write_conversion_not_mem hRaw v (hv ▸ hMem),
    fun w hw => hPlan.config_word hRaw (hw ▸ hMem)⟩

end Sys2Proof

/-! PROOFS. The two raw access commands with an index of 0 to 3 and an access that succeeds (R140, R141). -/

namespace Sys2Proof.Machine

/-- The index of a register names that register (R42). -/
@[simp] theorem registerOf_registerNumber (reg : DevReg) : registerOf (registerNumber reg) = .ok reg := by
  cases reg <;> rfl

/-- A read that succeeds hands its data on. -/
theorem afterRead_of_success {s : State} {reg : DevReg} {v : Word16} (h : nextAnswer s (.read reg) = .success v)
    (k : Word16 → State → State) : afterRead (memRead s reg) k = k v (logAccess s (.didRead reg v)) := by
  rw [memRead_of_success h, afterRead]

end Sys2Proof.Machine

namespace Sys2Proof

open Sys2Proof.Machine

/-- Settles O49: the index names its register, and the write goes on to the answer 0. -/
theorem writeRegisterCompletes : Obligations.WriteRegisterCompletes := by
  rintro s reg value ⟨⟨d, hWrite⟩, -⟩
  rw [exec, execWriteRegister, registerOf_registerNumber, afterAccesses_single]
  simp only [afterWrite_of_success hWrite]
  rfl

/-- Settles O50: the index names its register, and the read goes on to the answer with its data. -/
theorem readRegisterCompletes : Obligations.ReadRegisterCompletes := by
  rintro s reg v ⟨hRead, -⟩
  rw [exec, execReadRegister, registerOf_registerNumber, afterAccesses_single, ← okResponse_eq]
  simp only [afterRead_of_success hRead]
  rfl

end Sys2Proof

/-! PROOFS. The command word (30_encoding.md Part C). A word is its fields: the encoder fixes each field, the decoder
reads each, and the opcode table asks for some of them. So the decoder accepts a word exactly as the command that encodes
to it, and it accepts exactly the words of the table that keep the presence constraints of format Q. -/

namespace Sys2Proof

/-! ### The fields of a word -/

/-- A field that is cut in two is a concatenation when its parts are the two pieces (R10). -/
theorem bits_eq_append_iff {w : Word64} {lo m n : Nat} {x : BitVec m} {y : BitVec n} :
    bits w lo (m + n) = x ++ y ↔ bits w (lo + n) m = x ∧ bits w lo n = y := by
  have hCut : bits w lo (m + n) = bits w (lo + n) m ++ bits w lo n :=
    (BitVec.extractLsb'_append_extractLsb'_eq_extractLsb' rfl).symm
  rw [hCut]
  constructor
  · intro h
    have hHigh := congrArg (BitVec.extractLsb' n m) h
    have hLow := congrArg (BitVec.extractLsb' 0 n) h
    exact ⟨by simpa only [BitVec.extractLsb'_append_eq_left] using hHigh,
      by simpa only [BitVec.extractLsb'_append_eq_right] using hLow⟩
  · rintro ⟨rfl, rfl⟩
    rfl

theorem bits_all (w : Word64) : bits w 0 64 = w := BitVec.extractLsb'_eq_self

theorem formatE_eq_iff {w : Word64} {op : BitVec 4} {a b c : BitVec 8} {m k : BitVec 1} {z : BitVec 34} :
    op ++ a ++ b ++ c ++ m ++ k ++ z = w ↔ bits w 60 4 = op ∧ bits w 52 8 = a ∧ bits w 44 8 = b ∧
      bits w 36 8 = c ∧ bits w 35 1 = m ∧ bits w 34 1 = k ∧ bits w 0 34 = z := by
  calc op ++ a ++ b ++ c ++ m ++ k ++ z = w
    _ ↔ bits w 0 (4 + 8 + 8 + 8 + 1 + 1 + 34) = op ++ a ++ b ++ c ++ m ++ k ++ z := by rw [eq_comm, bits_all]
    _ ↔ _ := by simp only [bits_eq_append_iff, and_assoc, Nat.zero_add]

theorem formatV16_eq_iff {w : Word64} {op : BitVec 4} {z : BitVec 44} {v : Word16} :
    op ++ z ++ v = w ↔ bits w 60 4 = op ∧ bits w 16 44 = z ∧ bits w 0 16 = v := by
  calc op ++ z ++ v = w
    _ ↔ bits w 0 (4 + 44 + 16) = op ++ z ++ v := by rw [eq_comm, bits_all]
    _ ↔ _ := by simp only [bits_eq_append_iff, and_assoc, Nat.zero_add]

theorem formatV32_eq_iff {w : Word64} {op : BitVec 4} {z : BitVec 28} {v : BitVec 32} :
    op ++ z ++ v = w ↔ bits w 60 4 = op ∧ bits w 32 28 = z ∧ bits w 0 32 = v := by
  calc op ++ z ++ v = w
    _ ↔ bits w 0 (4 + 28 + 32) = op ++ z ++ v := by rw [eq_comm, bits_all]
    _ ↔ _ := by simp only [bits_eq_append_iff, and_assoc, Nat.zero_add]

theorem formatQ_eq_iff {w : Word64} {op : BitVec 4} {a b c : BitVec 8} {p q : BitVec 1} {z : BitVec 2}
    {t : BitVec 32} : op ++ a ++ b ++ c ++ p ++ q ++ z ++ t = w ↔ bits w 60 4 = op ∧ bits w 52 8 = a ∧
      bits w 44 8 = b ∧ bits w 36 8 = c ∧ bits w 35 1 = p ∧ bits w 34 1 = q ∧ bits w 32 2 = z ∧
      bits w 0 32 = t := by
  calc op ++ a ++ b ++ c ++ p ++ q ++ z ++ t = w
    _ ↔ bits w 0 (4 + 8 + 8 + 8 + 1 + 1 + 2 + 32) = op ++ a ++ b ++ c ++ p ++ q ++ z ++ t := by rw [eq_comm, bits_all]
    _ ↔ _ := by simp only [bits_eq_append_iff, and_assoc, Nat.zero_add]

theorem formatZ_eq_iff {w : Word64} {op : BitVec 4} {z : BitVec 60} :
    op ++ z = w ↔ bits w 60 4 = op ∧ bits w 0 60 = z := by
  calc op ++ z = w
    _ ↔ bits w 0 (4 + 60) = op ++ z := by rw [eq_comm, bits_all]
    _ ↔ _ := by simp only [bits_eq_append_iff, Nat.zero_add]

theorem formatRWrite_eq_iff {w : Word64} {op : BitVec 4} {a : BitVec 8} {z : BitVec 36} {v : Word16} :
    op ++ a ++ z ++ v = w ↔ bits w 60 4 = op ∧ bits w 52 8 = a ∧ bits w 16 36 = z ∧ bits w 0 16 = v := by
  calc op ++ a ++ z ++ v = w
    _ ↔ bits w 0 (4 + 8 + 36 + 16) = op ++ a ++ z ++ v := by rw [eq_comm, bits_all]
    _ ↔ _ := by simp only [bits_eq_append_iff, and_assoc, Nat.zero_add]

theorem formatRRead_eq_iff {w : Word64} {op : BitVec 4} {a : BitVec 8} {z : BitVec 52} :
    op ++ a ++ z = w ↔ bits w 60 4 = op ∧ bits w 52 8 = a ∧ bits w 0 52 = z := by
  calc op ++ a ++ z = w
    _ ↔ bits w 0 (4 + 8 + 52) = op ++ a ++ z := by rw [eq_comm, bits_all]
    _ ↔ _ := by simp only [bits_eq_append_iff, and_assoc, Nat.zero_add]

/-! ### The operand in a field -/

/-- A field reads as `i` when `i` fits and the field holds it (R74, R82). -/
theorem toInt_eq_iff {n : Nat} (hn : 0 < n) {b : BitVec n} {i : Int} :
    b.toInt = i ↔ (-2 ^ (n - 1) ≤ i ∧ i < 2 ^ (n - 1)) ∧ b = BitVec.ofInt n i := by
  constructor
  · rintro rfl
    exact ⟨⟨BitVec.le_toInt b, BitVec.toInt_lt⟩, BitVec.ofInt_toInt.symm⟩
  · rintro ⟨⟨hLow, hHigh⟩, rfl⟩
    exact BitVec.toInt_ofInt_eq_self hn hLow hHigh

theorem signedBits_eq_iff_fitsS8 {w : Word64} {lo : Nat} {i : Int} :
    signedBits w lo 8 = i ↔ fitsS8 i = true ∧ bits w lo 8 = BitVec.ofInt 8 i := by
  have hRange : (-2 ^ (8 - 1) ≤ i ∧ i < 2 ^ (8 - 1)) ↔ -128 ≤ i ∧ i ≤ 127 := by omega
  rw [signedBits, toInt_eq_iff (by decide), hRange, fitsS8, decide_eq_true_iff]

theorem signedBits_eq_iff_fitsS32 {w : Word64} {lo : Nat} {i : Int} :
    signedBits w lo 32 = i ↔ fitsS32 i = true ∧ bits w lo 32 = BitVec.ofInt 32 i := by
  have hRange : (-2 ^ (32 - 1) ≤ i ∧ i < 2 ^ (32 - 1)) ↔ -2147483648 ≤ i ∧ i ≤ 2147483647 := by omega
  rw [signedBits, toInt_eq_iff (by decide), hRange, fitsS32, decide_eq_true_iff]

/-- An optional operand with its presence constraint: the presence bit and the field of the encoder (R79, R83). -/
theorem optionalOperand_eq_iff {w : Word64} {lo len : Nat} {fits : Int → Bool}
    (hFits : ∀ {i : Int}, signedBits w lo len = i ↔ fits i = true ∧ bits w lo len = BitVec.ofInt len i)
    {p : BitVec 1} {o : Option Int} :
    (p = 0 → bits w lo len = 0) ∧ optionalOperand p (signedBits w lo len) = o ↔
      optionFits fits o = true ∧ p = presenceBit o ∧ bits w lo len = BitVec.ofInt len (o.getD 0) := by
  rcases BitVec.eq_zero_or_eq_one p with rfl | rfl <;> cases o with
  | none => simp [optionalOperand, optionFits, presenceBit]
  | some i => simp [optionalOperand, optionFits, presenceBit, hFits]

theorem modeOfBit_eq_iff {b : BitVec 1} {m : ConvMode} : modeOfBit b = m ↔ b = modeBit m := by
  rcases BitVec.eq_zero_or_eq_one b with rfl | rfl <;> cases m <;> decide

theorem beq_one_eq_iff {b : BitVec 1} {c : Bool} : (b == 1) = c ↔ b = BitVec.ofBool c := by
  rcases BitVec.eq_zero_or_eq_one b with rfl | rfl <;> cases c <;> decide

/-! ### What the decoder accepts -/

/-- A decoder with one check accepts when the check holds. -/
theorem checked_eq_ok_iff {P : Prop} [Decidable P] {e : Illegal} {j i : Instr} :
    (if P then Except.ok j else .error e) = .ok i ↔ P ∧ j = i := by
  by_cases h : P
  · simp [h]
  · simp [h]

theorem decodeFormatE_eq_ok_iff {w : Word64} {i : Instr} : decodeFormatE w = .ok i ↔ bits w 0 34 = 0 ∧
    .encodeConfig (modeOfBit (bits w 35 1)) (signedBits w 52 8) (signedBits w 44 8) (signedBits w 36 8)
      (bits w 34 1 == 1) = i :=
  checked_eq_ok_iff

theorem decodeFormatV16_eq_ok_iff {make : Word16 → Instr} {w : Word64} {i : Instr} :
    decodeFormatV16 make w = .ok i ↔ bits w 16 44 = 0 ∧ make (bits w 0 16) = i :=
  checked_eq_ok_iff

theorem decodeFormatV32_eq_ok_iff {w : Word64} {i : Instr} :
    decodeFormatV32 w = .ok i ↔ bits w 32 28 = 0 ∧ .encodeThreshold (signedBits w 0 32) = i :=
  checked_eq_ok_iff

/-- The must-be-0 bits and the presence constraints of format Q (R79, R83). -/
def FormatQLegal (takesThr : Bool) (w : Word64) : Prop :=
  bits w 32 2 = 0 ∧ (bits w 35 1 = 0 → bits w 36 8 = 0) ∧ (bits w 34 1 = 1 → takesThr = true) ∧
    (bits w 34 1 = 0 → bits w 0 32 = 0)

theorem decodeFormatQ_eq_ok_iff {takesThr : Bool} {make : Int → Int → Option Int → Option Int → Instr} {w : Word64}
    {i : Instr} : decodeFormatQ takesThr make w = .ok i ↔ FormatQLegal takesThr w ∧
      make (signedBits w 52 8) (signedBits w 44 8) (optionalOperand (bits w 35 1) (signedBits w 36 8))
        (optionalOperand (bits w 34 1) (signedBits w 0 32)) = i := by
  unfold decodeFormatQ FormatQLegal
  split_ifs <;> simp_all

theorem decodeFormatZ_eq_ok_iff {j : Instr} {w : Word64} {i : Instr} :
    decodeFormatZ j w = .ok i ↔ bits w 0 60 = 0 ∧ j = i :=
  checked_eq_ok_iff

theorem decodeFormatRWrite_eq_ok_iff {w : Word64} {i : Instr} :
    decodeFormatRWrite w = .ok i ↔ bits w 16 36 = 0 ∧ .writeRegister (signedBits w 52 8) (bits w 0 16) = i :=
  checked_eq_ok_iff

theorem decodeFormatRRead_eq_ok_iff {w : Word64} {i : Instr} :
    decodeFormatRRead w = .ok i ↔ bits w 0 52 = 0 ∧ .readRegister (signedBits w 52 8) = i :=
  checked_eq_ok_iff

/-- The opcode selects the format, and every other opcode is refused (R75, R83). -/
theorem decode_eq_ok_iff {w : Word64} {i : Instr} : decode w = .ok i ↔
    (bits w 60 4 = 1 ∧ decodeFormatE w = .ok i) ∨
    (bits w 60 4 = 2 ∧ decodeFormatV16 .decodeConfig w = .ok i) ∨
    (bits w 60 4 = 3 ∧ decodeFormatV16 .decodeSample w = .ok i) ∨
    (bits w 60 4 = 4 ∧ decodeFormatV32 w = .ok i) ∨
    (bits w 60 4 = 5 ∧ decodeFormatQ false (fun rate ch1 ch2 _ => .blockingRead rate ch1 ch2) w = .ok i) ∨
    (bits w 60 4 = 6 ∧ decodeFormatQ false (fun rate ch1 ch2 _ => .setConv rate ch1 ch2) w = .ok i) ∨
    (bits w 60 4 = 7 ∧ decodeFormatZ .readRev w = .ok i) ∨
    (bits w 60 4 = 8 ∧ decodeFormatQ true (fun rate ch1 ch2 thr => .alertStart rate ch1 ch2 thr) w = .ok i) ∨
    (bits w 60 4 = 9 ∧ decodeFormatZ .alertRead w = .ok i) ∨
    (bits w 60 4 = 10 ∧ decodeFormatQ false (fun rate ch1 ch2 _ => .conversionStart rate ch1 ch2) w = .ok i) ∨
    (bits w 60 4 = 11 ∧ decodeFormatRWrite w = .ok i) ∨
    (bits w 60 4 = 12 ∧ decodeFormatRRead w = .ok i) := by
  unfold decode
  generalize bits w 60 4 = op
  obtain ⟨n, hn⟩ := op
  interval_cases n <;> simp

/-! ### The command that a word encodes -/

/-- Format Q without a threshold is format Q with an absent one. -/
theorem formatQLegal_false_iff {w : Word64} : FormatQLegal false w ↔
    FormatQLegal true w ∧ optionalOperand (bits w 34 1) (signedBits w 0 32) = none := by
  have hAbsent : optionalOperand (bits w 34 1) (signedBits w 0 32) = none ↔ ¬ bits w 34 1 = 1 := by
    simp [optionalOperand]
  simp only [FormatQLegal, hAbsent, Bool.false_eq_true, imp_false, implies_true, true_and]
  tauto

/-- The operands of a word of format Q that has a threshold field (R79, R82). -/
theorem encodeFormatQ_eq_iff {w : Word64} {op : BitVec 4} {rate ch1 : Int} {ch2 thr : Option Int} :
    (fitsS8 rate && fitsS8 ch1 && optionFits fitsS8 ch2 && optionFits fitsS32 thr) = true ∧
      encodeFormatQ op rate ch1 ch2 thr = w ↔
    bits w 60 4 = op ∧ FormatQLegal true w ∧ signedBits w 52 8 = rate ∧ signedBits w 44 8 = ch1 ∧
      optionalOperand (bits w 35 1) (signedBits w 36 8) = ch2 ∧
      optionalOperand (bits w 34 1) (signedBits w 0 32) = thr := by
  have hCh2 := optionalOperand_eq_iff (w := w) (p := bits w 35 1) (o := ch2) (signedBits_eq_iff_fitsS8 (lo := 36))
  have hThr := optionalOperand_eq_iff (w := w) (p := bits w 34 1) (o := thr) (signedBits_eq_iff_fitsS32 (lo := 0))
  rw [encodeFormatQ, formatQ_eq_iff, FormatQLegal, signedBits_eq_iff_fitsS8, signedBits_eq_iff_fitsS8]
  simp only [Bool.and_eq_true]
  constructor
  · rintro ⟨⟨⟨⟨hFitsRate, hFitsCh1⟩, hFitsCh2⟩, hFitsThr⟩, hOp, hRate, hCh1, hValue2, hPresent2, hPresentT,
      hZero, hValueT⟩
    obtain ⟨hAbsent2, hRead2⟩ := hCh2.mpr ⟨hFitsCh2, hPresent2, hValue2⟩
    obtain ⟨hAbsentT, hReadT⟩ := hThr.mpr ⟨hFitsThr, hPresentT, hValueT⟩
    exact ⟨hOp, ⟨hZero, hAbsent2, fun _ => trivial, hAbsentT⟩, ⟨hFitsRate, hRate⟩, ⟨hFitsCh1, hCh1⟩, hRead2, hReadT⟩
  · rintro ⟨hOp, ⟨hZero, hAbsent2, -, hAbsentT⟩, ⟨hFitsRate, hRate⟩, ⟨hFitsCh1, hCh1⟩, hRead2, hReadT⟩
    obtain ⟨hFitsCh2, hPresent2, hValue2⟩ := hCh2.mp ⟨hAbsent2, hRead2⟩
    obtain ⟨hFitsThr, hPresentT, hValueT⟩ := hThr.mp ⟨hAbsentT, hReadT⟩
    exact ⟨⟨⟨⟨hFitsRate, hFitsCh1⟩, hFitsCh2⟩, hFitsThr⟩, hOp, hRate, hCh1, hValue2, hPresent2, hPresentT,
      hZero, hValueT⟩

/-- The operands of a word of format Q that has none. -/
theorem encodeFormatQ_none_eq_iff {w : Word64} {op : BitVec 4} {rate ch1 : Int} {ch2 : Option Int} :
    (fitsS8 rate && fitsS8 ch1 && optionFits fitsS8 ch2) = true ∧ encodeFormatQ op rate ch1 ch2 none = w ↔
    bits w 60 4 = op ∧ FormatQLegal false w ∧ signedBits w 52 8 = rate ∧ signedBits w 44 8 = ch1 ∧
      optionalOperand (bits w 35 1) (signedBits w 36 8) = ch2 := by
  have hFits : optionFits fitsS32 none = true := rfl
  have h := encodeFormatQ_eq_iff (w := w) (op := op) (rate := rate) (ch1 := ch1) (ch2 := ch2) (thr := none)
  rw [hFits, Bool.and_true] at h
  rw [h, formatQLegal_false_iff]
  tauto

theorem encode_encodeConfig_eq_iff {w : Word64} {mode : ConvMode} {rate chan gain : Int} {cmp : Bool} :
    (Instr.encodeConfig mode rate chan gain cmp).wf = true ∧ encode (.encodeConfig mode rate chan gain cmp) = w ↔
    bits w 60 4 = 1 ∧ bits w 0 34 = 0 ∧ modeOfBit (bits w 35 1) = mode ∧ signedBits w 52 8 = rate ∧
      signedBits w 44 8 = chan ∧ signedBits w 36 8 = gain ∧ (bits w 34 1 == 1) = cmp := by
  rw [Instr.wf, encode, formatE_eq_iff, modeOfBit_eq_iff, beq_one_eq_iff]
  simp only [signedBits_eq_iff_fitsS8, Bool.and_eq_true]
  tauto

theorem encode_encodeThreshold_eq_iff {w : Word64} {value : Int} :
    (Instr.encodeThreshold value).wf = true ∧ encode (.encodeThreshold value) = w ↔
    bits w 60 4 = 4 ∧ bits w 32 28 = 0 ∧ signedBits w 0 32 = value := by
  rw [Instr.wf, encode, formatV32_eq_iff, signedBits_eq_iff_fitsS32]
  tauto

theorem encode_writeRegister_eq_iff {w : Word64} {idx : Int} {value : Word16} :
    (Instr.writeRegister idx value).wf = true ∧ encode (.writeRegister idx value) = w ↔
    bits w 60 4 = 11 ∧ bits w 16 36 = 0 ∧ signedBits w 52 8 = idx ∧ bits w 0 16 = value := by
  rw [Instr.wf, encode, formatRWrite_eq_iff, signedBits_eq_iff_fitsS8]
  tauto

theorem encode_readRegister_eq_iff {w : Word64} {idx : Int} :
    (Instr.readRegister idx).wf = true ∧ encode (.readRegister idx) = w ↔
    bits w 60 4 = 12 ∧ bits w 0 52 = 0 ∧ signedBits w 52 8 = idx := by
  rw [Instr.wf, encode, formatRRead_eq_iff, signedBits_eq_iff_fitsS8]
  tauto

/-- The decoder accepts a word as a command exactly when the command is well-formed and the word is its word. -/
theorem decode_eq_ok_iff_encode_eq {w : Word64} {i : Instr} : decode w = .ok i ↔ i.wf = true ∧ encode i = w := by
  simp only [decode_eq_ok_iff, decodeFormatE_eq_ok_iff, decodeFormatV16_eq_ok_iff, decodeFormatV32_eq_ok_iff,
    decodeFormatQ_eq_ok_iff, decodeFormatZ_eq_ok_iff, decodeFormatRWrite_eq_ok_iff, decodeFormatRRead_eq_ok_iff]
  cases i with
  | encodeConfig => simp only [reduceCtorEq, and_false, or_false, Instr.encodeConfig.injEq, encode_encodeConfig_eq_iff]
  | decodeConfig | decodeSample | readRev | alertRead =>
    simp only [reduceCtorEq, and_false, or_false, false_or, Instr.decodeConfig.injEq, Instr.decodeSample.injEq,
      Instr.wf, encode, formatV16_eq_iff, formatZ_eq_iff, true_and, and_true]
  | encodeThreshold =>
    simp only [reduceCtorEq, and_false, or_false, false_or, Instr.encodeThreshold.injEq, encode_encodeThreshold_eq_iff]
  | blockingRead | setConv | conversionStart =>
    simp only [reduceCtorEq, and_false, or_false, false_or, Instr.blockingRead.injEq, Instr.setConv.injEq,
      Instr.conversionStart.injEq, Instr.wf, encode, encodeFormatQ_none_eq_iff]
  | alertStart =>
    simp only [reduceCtorEq, and_false, or_false, false_or, Instr.alertStart.injEq, Instr.wf, encode,
      encodeFormatQ_eq_iff]
  | writeRegister =>
    simp only [reduceCtorEq, and_false, or_false, false_or, Instr.writeRegister.injEq, encode_writeRegister_eq_iff]
  | readRegister =>
    simp only [reduceCtorEq, and_false, false_or, Instr.readRegister.injEq, encode_readRegister_eq_iff]

/-! ### The opcode table -/

/-- A mask that covers a field keeps it. -/
theorem bits_and_of_covers {w mask : Word64} {lo len : Nat} (h : bits mask lo len = BitVec.allOnes len) :
    bits (w &&& mask) lo len = bits w lo len := by
  rw [bits, BitVec.extractLsb'_and, ← bits, ← bits, h, BitVec.and_allOnes]

/-- A mask that spares a field clears it. -/
theorem bits_and_of_spares {w mask : Word64} {lo len : Nat} (h : bits mask lo len = 0) :
    bits (w &&& mask) lo len = 0 := by
  rw [bits, BitVec.extractLsb'_and, ← bits, ← bits, h]
  exact BitVec.and_zero

theorem rowE_iff {w : Word64} (op : BitVec 4) :
    w &&& 0xF0000003FFFFFFFF = (op ++ (0 : BitVec 8) ++ (0 : BitVec 8) ++ (0 : BitVec 8) ++ (0 : BitVec 1) ++
      (0 : BitVec 1) ++ (0 : BitVec 34) : Word64) ↔ bits w 60 4 = op ∧ bits w 0 34 = 0 := by
  rw [eq_comm, formatE_eq_iff]
  simp (disch := decide) only [bits_and_of_covers, bits_and_of_spares, true_and]

theorem rowV16_iff {w : Word64} (op : BitVec 4) : w &&& 0xFFFFFFFFFFFF0000 =
      (op ++ (0 : BitVec 44) ++ (0 : BitVec 16) : Word64) ↔ bits w 60 4 = op ∧ bits w 16 44 = 0 := by
  rw [eq_comm, formatV16_eq_iff]
  simp (disch := decide) only [bits_and_of_covers, bits_and_of_spares, and_true]

theorem rowV32_iff {w : Word64} (op : BitVec 4) : w &&& 0xFFFFFFFF00000000 =
      (op ++ (0 : BitVec 28) ++ (0 : BitVec 32) : Word64) ↔ bits w 60 4 = op ∧ bits w 32 28 = 0 := by
  rw [eq_comm, formatV32_eq_iff]
  simp (disch := decide) only [bits_and_of_covers, bits_and_of_spares, and_true]

theorem rowQ_iff {w : Word64} (op : BitVec 4) :
    w &&& 0xF0000007FFFFFFFF = (op ++ (0 : BitVec 8) ++ (0 : BitVec 8) ++ (0 : BitVec 8) ++ (0 : BitVec 1) ++
      (0 : BitVec 1) ++ (0 : BitVec 2) ++ (0 : BitVec 32) : Word64) ↔
      bits w 60 4 = op ∧ bits w 34 1 = 0 ∧ bits w 32 2 = 0 ∧ bits w 0 32 = 0 := by
  rw [eq_comm, formatQ_eq_iff]
  simp (disch := decide) only [bits_and_of_covers, bits_and_of_spares, true_and]

theorem rowQThreshold_iff {w : Word64} (op : BitVec 4) :
    w &&& 0xF000000300000000 = (op ++ (0 : BitVec 8) ++ (0 : BitVec 8) ++ (0 : BitVec 8) ++ (0 : BitVec 1) ++
      (0 : BitVec 1) ++ (0 : BitVec 2) ++ (0 : BitVec 32) : Word64) ↔ bits w 60 4 = op ∧ bits w 32 2 = 0 := by
  rw [eq_comm, formatQ_eq_iff]
  simp (disch := decide) only [bits_and_of_covers, bits_and_of_spares, true_and, and_true]

theorem rowZ_iff {w : Word64} (op : BitVec 4) :
    w &&& 0xFFFFFFFFFFFFFFFF = (op ++ (0 : BitVec 60) : Word64) ↔ bits w 60 4 = op ∧ bits w 0 60 = 0 := by
  rw [eq_comm, formatZ_eq_iff]
  simp (disch := decide) only [bits_and_of_covers]

theorem rowRWrite_iff {w : Word64} (op : BitVec 4) : w &&& 0xF00FFFFFFFFF0000 =
      (op ++ (0 : BitVec 8) ++ (0 : BitVec 36) ++ (0 : BitVec 16) : Word64) ↔
      bits w 60 4 = op ∧ bits w 16 36 = 0 := by
  rw [eq_comm, formatRWrite_eq_iff]
  simp (disch := decide) only [bits_and_of_covers, bits_and_of_spares, true_and, and_true]

theorem rowRRead_iff {w : Word64} (op : BitVec 4) : w &&& 0xF00FFFFFFFFFFFFF =
      (op ++ (0 : BitVec 8) ++ (0 : BitVec 52) : Word64) ↔ bits w 60 4 = op ∧ bits w 0 52 = 0 := by
  rw [eq_comm, formatRRead_eq_iff]
  simp (disch := decide) only [bits_and_of_covers, bits_and_of_spares, true_and]

/-- The rows of the opcode table as fields of the word. -/
theorem matchesTable_iff {w : Word64} : matchesTable w = true ↔
    (bits w 60 4 = 1 ∧ bits w 0 34 = 0) ∨ (bits w 60 4 = 2 ∧ bits w 16 44 = 0) ∨
    (bits w 60 4 = 3 ∧ bits w 16 44 = 0) ∨ (bits w 60 4 = 4 ∧ bits w 32 28 = 0) ∨
    (bits w 60 4 = 5 ∧ bits w 34 1 = 0 ∧ bits w 32 2 = 0 ∧ bits w 0 32 = 0) ∨
    (bits w 60 4 = 6 ∧ bits w 34 1 = 0 ∧ bits w 32 2 = 0 ∧ bits w 0 32 = 0) ∨
    (bits w 60 4 = 7 ∧ bits w 0 60 = 0) ∨ (bits w 60 4 = 8 ∧ bits w 32 2 = 0) ∨
    (bits w 60 4 = 9 ∧ bits w 0 60 = 0) ∨
    (bits w 60 4 = 10 ∧ bits w 34 1 = 0 ∧ bits w 32 2 = 0 ∧ bits w 0 32 = 0) ∨
    (bits w 60 4 = 11 ∧ bits w 16 36 = 0) ∨ (bits w 60 4 = 12 ∧ bits w 0 52 = 0) := by
  simp only [matchesTable, opcodeTable, List.any_cons, List.any_nil, Bool.or_false, Bool.or_eq_true, beq_iff_eq]
  exact or_congr (rowE_iff 1) <| or_congr (rowV16_iff 2) <| or_congr (rowV16_iff 3) <| or_congr (rowV32_iff 4) <|
    or_congr (rowQ_iff 5) <| or_congr (rowQ_iff 6) <| or_congr (rowZ_iff 7) <| or_congr (rowQThreshold_iff 8) <|
    or_congr (rowZ_iff 9) <| or_congr (rowQ_iff 10) <| or_congr (rowRWrite_iff 11) (rowRRead_iff 12)

theorem getLsbD_eq_true_iff_bits {w : Word64} {i : Nat} : w.getLsbD i = true ↔ ¬ bits w i 1 = 0 := by
  have hBit : (bits w i 1).getLsbD 0 = w.getLsbD i := by simp [bits]
  rcases BitVec.eq_zero_or_eq_one (bits w i 1) with h | h <;> simp [← hBit, h]

theorem channel2Respected_iff {w : Word64} : channel2Respected w = true ↔ (bits w 35 1 = 0 → bits w 36 8 = 0) := by
  rw [channel2Respected, Bool.or_eq_true, beq_iff_eq, getLsbD_eq_true_iff_bits, ← imp_iff_not_or, ← bits]

theorem thresholdRespected_iff {w : Word64} :
    thresholdRespected w = true ↔ (bits w 34 1 = 0 → bits w 0 32 = 0) := by
  rw [thresholdRespected, Bool.or_eq_true, beq_iff_eq, getLsbD_eq_true_iff_bits, ← imp_iff_not_or, ← bits]

/-- Format Q with a threshold is its row of the table with the two presence constraints. -/
theorem formatQLegal_true_iff_row {w : Word64} : FormatQLegal true w ↔
    bits w 32 2 = 0 ∧ channel2Respected w = true ∧ thresholdRespected w = true := by
  simp only [FormatQLegal, channel2Respected_iff, thresholdRespected_iff, implies_true, true_and]

/-- Format Q without a threshold likewise; its row asks for a threshold field of 0 already. -/
theorem formatQLegal_false_iff_row {w : Word64} : FormatQLegal false w ↔
    (bits w 34 1 = 0 ∧ bits w 32 2 = 0 ∧ bits w 0 32 = 0) ∧ channel2Respected w = true ∧
      thresholdRespected w = true := by
  rw [FormatQLegal, channel2Respected_iff, thresholdRespected_iff]
  rcases BitVec.eq_zero_or_eq_one (bits w 34 1) with h | h
  · simp only [h]
    tauto
  · simp [h]

/-- The decoder accepts the words of its opcode's row that keep the presence constraints of format Q. -/
theorem exists_decode_eq_ok_iff_legalWord {w : Word64} : (∃ i, decode w = .ok i) ↔ LegalWord w = true := by
  have hQ : isFormatQ w = [5, 6, 8, 10].contains (bits w 60 4).toNat := rfl
  simp only [decode_eq_ok_iff, decodeFormatE_eq_ok_iff, decodeFormatV16_eq_ok_iff, decodeFormatV32_eq_ok_iff,
    decodeFormatQ_eq_ok_iff, decodeFormatZ_eq_ok_iff, decodeFormatRWrite_eq_ok_iff, decodeFormatRRead_eq_ok_iff,
    exists_or, exists_and_left, exists_eq', and_true]
  rw [LegalWord, Bool.and_eq_true, matchesTable_iff, hQ, formatQLegal_true_iff_row, formatQLegal_false_iff_row]
  generalize bits w 60 4 = op
  obtain ⟨n, hn⟩ := op
  interval_cases n <;> simp

end Sys2Proof

namespace Sys2Proof

open Sys2Proof.Machine

/-! ### Operands that fail no check fit their fields -/

theorem fits_of_not_pairOut {ch1 : Int} {ch2 : Option Int} (h : ¬ PairOut ch1 ch2) :
    fitsS8 ch1 = true ∧ optionFits fitsS8 ch2 = true := by
  simp only [PairOut, not_not, channelPairs, List.map_cons, List.map_nil, List.mem_cons, Prod.mk.injEq,
    List.not_mem_nil, or_false] at h
  rcases h with h | h | h | h | h | h | h | h <;> (rw [h.1, h.2]; decide)

theorem fits_of_not_thresholdOut {v : Variant} {t : Int} (h : ¬ ThresholdOut v t) : fitsS32 t = true := by
  rw [fitsS32, decide_eq_true_iff]
  cases v <;> (simp only [ThresholdOut] at h; omega)

theorem fits_of_no_commonCause {s : State} {rate ch1 : Int} {ch2 : Option Int}
    (h : ∀ p ∈ commonCauses s rate ch1 ch2, p.1 = false) :
    (fitsS8 rate && fitsS8 ch1 && optionFits fitsS8 ch2) = true := by
  simp only [commonCauses, List.forall_mem_cons, decide_eq_false_iff_not] at h
  obtain ⟨hRate, hPair, -⟩ := h
  obtain ⟨hCh1, hCh2⟩ := fits_of_not_pairOut hPair
  have hFits : fitsS8 rate = true := by
    rw [fitsS8, decide_eq_true_iff]
    omega
  rw [hFits, hCh1, hCh2]
  rfl

/-- A command that fails no check of R151 has a word (R82). -/
theorem wf_of_no_cause {s : State} {i : Instr} (h : ∀ p ∈ causesOf s i, p.1 = false) : i.wf = true := by
  cases i with
  | decodeConfig | decodeSample | readRev | alertRead => rfl
  | blockingRead | setConv | conversionStart => exact fits_of_no_commonCause h
  | encodeThreshold =>
    simp only [causesOf, List.forall_mem_cons, decide_eq_false_iff_not] at h
    exact fits_of_not_thresholdOut h.1
  | alertStart _ _ _ thr =>
    simp only [causesOf, List.forall_mem_append, List.forall_mem_cons] at h
    obtain ⟨hCommon, hThr, -⟩ := h
    rw [Instr.wf, fits_of_no_commonCause hCommon, Bool.true_and]
    cases thr with
    | none => rfl
    | some t => exact fits_of_not_thresholdOut (decide_eq_false_iff_not.mp hThr)
  | encodeConfig | writeRegister | readRegister =>
    simp only [causesOf, List.forall_mem_cons, decide_eq_false_iff_not] at h
    simp only [Instr.wf, fitsS8, Bool.and_eq_true, decide_eq_true_iff]
    omega

/-- Settles O1: the decoder accepts a command's word as that command. -/
theorem decodeOfEncodedCommand : Obligations.DecodeOfEncodedCommand :=
  fun _ hWf => decode_eq_ok_iff_encode_eq.mpr ⟨hWf, rfl⟩

/-- Settles O2: the decoder accepts a command's word only. -/
theorem encodeOfDecodedWord : Obligations.EncodeOfDecodedWord :=
  fun _ _ hDecode => decode_eq_ok_iff_encode_eq.mp hDecode

/-- Settles O3, opcode by opcode, from the fields that the decoder and the opcode table ask for. -/
theorem decoderAcceptsExactlyLegalWords : Obligations.DecoderAcceptsExactlyLegalWords :=
  fun _ => exists_decode_eq_ok_iff_legalWord

/-- Settles O4, by evaluation of the decoder. -/
theorem exampleWordsDecode : Obligations.ExampleWordsDecode := by
  unfold Obligations.ExampleWordsDecode
  decide

/-- Settles O5: the decoder refuses a word that is not legal. -/
theorem illegalWordChangesNothing : Obligations.IllegalWordChangesNothing := by
  intro s w rest hBusy hPort hIllegal
  cases hDecode : decode w with
  | ok i =>
    have hLegal := exists_decode_eq_ok_iff_legalWord.mp ⟨i, hDecode⟩
    simp [hIllegal] at hLegal
  | error e =>
    rw [step_of_illegal hBusy hPort hDecode, hBusy]
    rfl

/-- Settles O23: operands that fail no check fit their fields, and a decoded command is well-formed. -/
theorem commandWithoutWordIsInvalid : Obligations.CommandWithoutWordIsInvalid := by
  intro i s hNoWord
  have hNotWf : ¬ i.wf = true := by simp [hNoWord]
  constructor
  · by_contra hValid
    refine hNotWf (wf_of_no_cause (s := s) fun p hp => ?_)
    exact Bool.eq_false_iff.mpr fun hFails => hValid ⟨p, hp, hFails⟩
  · intro w hDecode
    exact hNotWf (decode_eq_ok_iff_encode_eq.mp hDecode).1

end Sys2Proof

/-! PROOFS. The two codec commands on ConfigWords (R92, R93): the words of R60 and R85 as numbers. -/

namespace Sys2Proof.Machine

/-- An index of three bits keeps its value in its field. -/
theorem toNat_ofInt_three {i : Nat} (h : i ≤ 7) : (BitVec.ofInt 3 i).toNat = i := by
  rw [BitVec.ofInt_natCast, BitVec.toNat_ofNat]
  omega

/-- A packed ConfigWord as a number (R60). -/
theorem toNat_packConfig (os mode : BitVec 1) (cmp : BitVec 5) {chan gain rate : Nat} (hChan : chan ≤ 7)
    (hGain : gain ≤ 7) (hRate : rate ≤ 7) : (packConfig os chan gain mode rate cmp).toNat =
      32768 * os.toNat + 4096 * chan + 512 * gain + 256 * mode.toNat + 32 * rate + cmp.toNat := by
  rw [packConfig]
  simp only [toNat_append_add, toNat_ofInt_three hChan, toNat_ofInt_three hGain, toNat_ofInt_three hRate]
  omega

/-- The word of R92 as a number. -/
theorem configWord_eq_ofInt {mode : ConvMode} {rate chan gain : Int} {cmp : Bool} (hRate : InRange 0 7 rate)
    (hChan : InRange 0 7 chan) (hGain : InRange 0 5 gain) : configWord mode rate chan gain cmp = BitVec.ofInt 16
      ((match mode with | .singleShot => 0x8100 | .continuous => 0) + 4096 * chan + 512 * gain + 32 * rate +
        (if cmp then 0 else 3)) := by
  obtain ⟨r, rfl, hr⟩ := exists_nat_of_inRange (hi := 7) hRate
  obtain ⟨c, rfl, hc⟩ := exists_nat_of_inRange (hi := 7) hChan
  obtain ⟨g, rfl, hg⟩ := exists_nat_of_inRange (hi := 5) hGain
  have hMode : (33024 * (modeBit mode).toNat : Int) = match mode with | .singleShot => 0x8100 | .continuous => 0 := by
    cases mode <;> rfl
  have hCmp : ((if cmp then cmpEnabled else cmpDisabled).toNat : Int) = if cmp then 0 else 3 := by
    cases cmp <;> rfl
  calc configWord mode r c g cmp
    _ = BitVec.ofInt 16 (configWord mode r c g cmp).toNat := by simp
    _ = _ := by
      rw [configWord, toNat_packConfig _ _ _ hc (by omega) hr, ← hMode, ← hCmp]
      congr 1
      omega

/-- Packed fields as a number (R85). -/
theorem toNat_packFields (f : ConfigFields) : (packFields f).toNat = 2048 * f.os.toNat + 256 * f.chan.toNat +
    32 * f.gain.toNat + 16 * f.mode.toNat + 2 * f.rate.toNat + f.cmpEn.toNat := by
  rw [packFields]
  simp only [toNat_append_add, BitVec.ofNat_eq_ofNat, BitVec.toNat_ofNat]
  omega

/-- The comparator field reads as disabled exactly when both queue bits are set (R93). -/
theorem toNat_decodeConfig_cmpEn (raw : Word16) :
    (decodeConfig raw).cmpEn.toNat = if raw.toNat % 4 = 3 then 0 else 1 := by
  have hQueue : raw.extractLsb' 0 2 = 0b11 ↔ raw.toNat % 4 = 3 := by
    rw [← BitVec.toNat_inj, toNat_field]
    simp
  simp only [decodeConfig, hQueue]
  split_ifs <;> rfl

/-- The packed fields of a word as a number (R85, R93). -/
theorem packFields_decodeConfig_eq_ofNat (raw : Word16) : packFields (decodeConfig raw) = BitVec.ofNat 16
    (2048 * (raw.toNat / 32768) + 256 * (raw.toNat / 4096 % 8) + 32 * (raw.toNat / 512 % 8) +
      16 * (raw.toNat / 256 % 2) + 2 * (raw.toNat / 32 % 8) + (if raw.toNat % 4 = 3 then 0 else 1)) := by
  have hStart : raw.toNat / 32768 % 2 = raw.toNat / 32768 := Nat.mod_eq_of_lt (by have := raw.isLt; omega)
  calc packFields (decodeConfig raw)
    _ = BitVec.ofNat 16 (packFields (decodeConfig raw)).toNat := by simp
    _ = _ := by
      rw [toNat_packFields, toNat_decodeConfig_cmpEn]
      simp only [decodeConfig, toNat_field, Nat.reducePow, hStart]

end Sys2Proof.Machine

namespace Sys2Proof

open Sys2Proof.Machine

/-- Settles O31: operands in range pass the checks, and the packed word is the sum of R92. -/
theorem encodeConfigCompletes : Obligations.EncodeConfigCompletes := by
  intro mode rate chan gain cmp s hRate hChan hGain
  rw [exec, execEncodeConfig, encodeConfig, if_neg (not_not_intro hRate), if_neg (not_not_intro hChan),
    if_neg (not_not_intro hGain), configWord_eq_ofInt hRate hChan hGain, ← okResponse_eq]
  rfl

/-- Settles O32: the packed fields of a word are the sum of R85. -/
theorem decodeConfigCompletes : Obligations.DecodeConfigCompletes := by
  intro raw s
  rw [exec, execDecodeConfig, finish, packFields_decodeConfig_eq_ofNat, okResponse_eq]
  rfl

end Sys2Proof

/-! PROOFS. The response of a command (R84, R126, R164), and the thresholds that a command's plan holds (R71, R117). -/

namespace Sys2Proof.Machine

/-! ### One response, or a poll that goes on -/

/-- `t` comes from `s` by a command that has ended: not busy, one response more, laid out as R84 says. -/
def Answers (s t : State) : Prop :=
  t.busy = false ∧ ∃ r, t.responses = s.responses ++ [r] ∧ ResponseWellFormed r

/-- `t` comes from `s` by accesses of which the last is a poll that read bit 15 clear: busy, and no response yet. -/
def PollsOn (s t : State) : Prop :=
  t.busy = true ∧ t.responses = s.responses ∧
    ∃ evs v, t.trace = s.trace ++ accessesOf s (evs ++ [.didRead .config v]) ∧ v.getLsbD 15 = false

theorem answers_respond {s s1 : State} {r : Response} (hResponses : s1.responses = s.responses)
    (hr : ResponseWellFormed r) : Answers s (respond s1 r) :=
  ⟨rfl, r, by rw [respond_responses, hResponses], hr⟩

/-- A poll answers, or it has read bit 15 clear and goes on (R112, R164). -/
theorem PollEnds.answers_or_pollsOn {s t : State} (h : PollEnds s t) : Answers s t ∨ PollsOn s t := by
  cases h with
  | goesOn v _ hBit => exact .inr ⟨rfl, rfl, [], v, rfl, hBit⟩
  | sample => exact .inl (answers_respond rfl (valueResponse_wellFormed _))
  | readFails _ e | pollFails e => exact .inl (answers_respond rfl (transportError_wellFormed e))

theorem StartEnds.answers {hi w : Word16} {s t : State} (h : StartEnds hi w s t) : Answers s t := by
  cases h with
  | highFails e | lowFails _ e | configFails _ _ e => exact answers_respond (by simp) (transportError_wellFormed e)
  | started => exact answers_respond (by simp) ok_wellFormed

/-- A command answers, or it is a BLOCKING_READ whose poll goes on. -/
theorem CommandEnds.answers_or_pollsOn {i : Instr} {s t : State} (h : CommandEnds i s t) :
    Answers s t ∨ (PollsOn s t ∧ ∃ rate ch1 ch2, i = .blockingRead rate ch1 ch2) := by
  cases h with
  | blockingPolls _ _ rate ch1 ch2 c _ _ _ hPoll =>
    refine hPoll.answers_or_pollsOn.imp id fun ⟨hBusy, hResponses, evs, v, hTrace, hBit⟩ => ?_
    refine ⟨⟨hBusy, hResponses, .wrote .config (ssWord c s.gainIndex rate) :: evs, v, ?_, hBit⟩, rate, ch1, ch2, rfl⟩
    simp [hTrace, accessesOf]
  | alertStart _ _ _ _ _ _ _ _ _ hStart | conversionStart _ _ _ _ _ _ _ hStart => exact .inl hStart.answers
  | codec | readRev | alertRead | readRegister => exact .inl (answers_respond rfl (valueResponse_wellFormed _))
  | invalid _ _ c => exact .inl (answers_respond rfl (causeResponse_wellFormed c))
  | notPrimed => exact .inl (answers_respond rfl notPrimed_wellFormed)
  | setConv | writeRegister => exact .inl (answers_respond rfl ok_wellFormed)
  | blockingWriteFails _ _ _ _ _ e | setConvFails _ _ _ _ _ e | readRevReadFails _ e | readRevWriteFails _ _ e
  | alertReadFails _ e | writeRegisterFails _ _ _ e | readRegisterFails _ _ e =>
    exact .inl (answers_respond rfl (transportError_wellFormed e))

/-! ### The threshold words of a plan -/

/-- The raw form of a threshold in range is at most that of the largest, which has bit 15 clear (R71, R95). -/
theorem toNat_thresholdWord_le {v : Variant} {k : Int} (h : InRange 0 (largestThreshold v) k) :
    (thresholdWord v k).toNat ≤ (thresholdWord v (largestThreshold v)).toNat := by
  obtain ⟨hLow, hHigh⟩ := h
  cases v <;> simp only [largestThreshold] at hHigh <;>
    simp only [thresholdWord, largestThreshold, BitVec.toNat_ofInt] <;> omega

theorem thresholdWord_eq_shift (v : Variant) (k : Int) : thresholdWord v k = BitVec.ofInt 16 (k * 2 ^ shift v) := by
  cases v <;> simp [thresholdWord, shift, bitDepth]

/-- The only word planned for register 2 outside raw access is 0 (R71). -/
theorem RequestPlan.low_threshold {s : State} {i : Instr} {qs : List Request} {v : Word16} (h : RequestPlan s i qs)
    (hRaw : isRaw i = false) (hv : .write .lowThreshold v ∈ qs) : v = 0 := by
  cases h with
  | codec | blockingRead | setConv | readRev | alertRead => simp at hv
  | alertStart | conversionStart => simpa using hv
  | writeRegister | readRegister => simp [isRaw] at hRaw

/-- The words planned for register 3 outside raw access: an encoded threshold, or CONVERSION_START's parameter. -/
theorem RequestPlan.high_threshold {s : State} {i : Instr} {qs : List Request} {v : Word16} (h : RequestPlan s i qs)
    (hRaw : isRaw i = false) (hv : .write .highThreshold v ∈ qs) :
    (∃ k, InRange 0 (largestThreshold s.variant) k ∧ v = thresholdWord s.variant k) ∨
    ((∃ rate ch1 ch2, i = .conversionStart rate ch1 ch2) ∧ v = Config.convstartHiRaw s.variant) := by
  cases h with
  | codec | blockingRead | setConv | readRev | alertRead => simp at hv
  | alertStart _ hk => exact .inl ⟨_, hk, by simpa using hv⟩
  | conversionStart => exact .inr ⟨⟨_, _, _, rfl⟩, by simpa using hv⟩
  | writeRegister | readRegister => simp [isRaw] at hRaw

end Sys2Proof.Machine

namespace Sys2Proof

open Sys2Proof.Machine

/-- Settles O16, by cases on the ends of a command. -/
theorem oneResponsePerCommand : Obligations.OneResponsePerCommand := by
  intro i s t h
  refine (ends_of_exec h).answers_or_pollsOn.imp id ?_
  rintro ⟨⟨hBusy, hResponses, hPoll⟩, hBlocking⟩
  exact ⟨hBusy, hResponses, hBlocking, hPoll⟩

/-- Settles O21: a request that is sent is a request of the command's plan, whose threshold words are known. -/
theorem thresholdWritesOfController : Obligations.ThresholdWritesOfController := by
  intro i s t evs hRaw h hTrace e he
  obtain ⟨qs, hPlan, hMem⟩ := (ends_of_exec h).request_mem_plan hTrace he
  refine ⟨fun v hv => hPlan.low_threshold hRaw (hv ▸ hMem), fun v hv => ?_⟩
  refine (hPlan.high_threshold hRaw (hv ▸ hMem)).imp ?_ id
  rintro ⟨k, hk, rfl⟩
  exact ⟨k, hk.1, maxThr_eq s.variant ▸ hk.2, thresholdWord_eq_shift s.variant k,
    (toNat_thresholdWord_le hk).trans_eq (by cases s.variant <;> rfl)⟩

end Sys2Proof

/-! PROOFS. The controller commands SET_CONV, BLOCKING_READ and ALERT_START with valid operands and no failed access
(R112, R113, R115): each is its accesses after the prologue, with the closed form of its word (R69). -/

namespace Sys2Proof.Machine

/-- BLOCKING_READ with valid operands is the single-shot write and then the poll (R112). -/
theorem exec_blockingRead_of_valid {s : State} {rate ch1 : Int} {ch2 : Option Int} {c : Int}
    (h : PrologueAnswers s rate ch1 ch2 c) : exec (.blockingRead rate ch1 ch2) s =
      .next (writeConfig s (ssWord c s.gainIndex rate) pollCompletion) := by
  obtain ⟨hRate, hPair, hGain⟩ := h
  rw [exec, execBlockingRead, prepare_of_valid hRate hPair hGain,
    ← configWord_singleShot (inRange_of_mem_channelPairs hPair) hGain hRate]

/-- SET_CONV with valid operands is the single-shot write (R113). -/
theorem exec_setConv_of_valid {s : State} {rate ch1 : Int} {ch2 : Option Int} {c : Int}
    (h : PrologueAnswers s rate ch1 ch2 c) : exec (.setConv rate ch1 ch2) s =
      .next (writeConfig s (ssWord c s.gainIndex rate) fun s1 => finish s1 0) := by
  obtain ⟨hRate, hPair, hGain⟩ := h
  rw [exec, execSetConv, prepare_of_valid hRate hPair hGain,
    ← configWord_singleShot (inRange_of_mem_channelPairs hPair) hGain hRate]

/-- ALERT_START with valid operands is the three writes with the encoded threshold and the continuous word (R115). -/
theorem exec_alertStart_of_valid {s : State} {rate ch1 : Int} {ch2 thr : Option Int} {c : Int}
    (h : PrologueAnswers s rate ch1 ch2 c)
    (hk : InRange 0 (largestThreshold s.variant) (thr.getD (largestThreshold s.variant))) :
    exec (.alertStart rate ch1 ch2 thr) s = .next (startContinuous s
      (thresholdWord s.variant (thr.getD (largestThreshold s.variant))) (caWord c s.gainIndex rate)) := by
  obtain ⟨hRate, hPair, hGain⟩ := h
  rw [exec, execAlertStart, prepare_of_valid hRate hPair hGain, maxThr_eq, encodeThreshold_of_valid hk,
    ← configWord_continuous (inRange_of_mem_channelPairs hPair) hGain hRate]

/-- A ConfigWord write that succeeds is recorded and gone on from (R24, R122). -/
theorem writeConfig_of_success {s : State} {w d : Word16} (h : nextAnswer s (.write .config w) = .success d)
    (k : State → State) : writeConfig s w k = k (recordConfig (logAccess s (.wrote .config w)) w) :=
  afterWrite_of_success h _

/-- A poll that reads bit 15 set reads register 0 and delivers its sample (R112). -/
theorem pollCompletion_of_complete {s : State} {p raw : Word16} (hBit : p.getLsbD 15 = true)
    (h : EnvironmentDoes s [.didRead .config p, .didRead .conversion raw]) :
    pollCompletion s = deliverSample
      (recordRetrieval (logAccess (logAccess s (.didRead .config p)) (.didRead .conversion raw))) raw := by
  obtain ⟨hPoll, hRead, -⟩ := h
  rw [pollCompletion, afterRead_of_success hPoll, completionBit, if_pos hBit, readConversion,
    afterRead_of_success hRead]

end Sys2Proof.Machine

namespace Sys2Proof

open Sys2Proof.Machine

/-- Settles O39: the write succeeds, and the single-shot word has its mode bit set. -/
theorem setConvCompletes : Obligations.SetConvCompletes := by
  intro s rate ch1 ch2 c hRate hPair hGain hEnv
  obtain ⟨⟨d, hWrite⟩, -⟩ := hEnv
  rw [exec_setConv_of_valid ⟨hRate, hPair, hGain⟩, writeConfig_of_success hWrite, afterAccesses_single,
    ← phaseAfterConfigWrite_of_set (ssWord_mode c s.gainIndex rate)]
  rfl

/-- Settles O40: the write arms the phase, the poll is complete, and the retrieval takes the phase to Idle. -/
theorem blockingReadCompletes : Obligations.BlockingReadCompletes := by
  intro s rate ch1 ch2 c p raw hRate hPair hGain hBit hEnv
  obtain ⟨⟨d, hWrite⟩, hReads⟩ := hEnv
  have hPolls : EnvironmentDoes (recordConfig (logAccess s (.wrote .config (ssWord c s.gainIndex rate)))
      (ssWord c s.gainIndex rate)) [.didRead .config p, .didRead .conversion raw] :=
    environmentDoes_congr rfl rfl rfl hReads
  have hIdle : phaseAfterRetrieval (phaseAfterConfigWrite (ssWord c s.gainIndex rate)) = .idle := by
    rw [phaseAfterConfigWrite_of_set (ssWord_mode c s.gainIndex rate)]
    rfl
  rw [exec_blockingRead_of_valid ⟨hRate, hPair, hGain⟩, writeConfig_of_success hWrite,
    pollCompletion_of_complete hBit hPolls, deliverSample_eq, ← hIdle]
  simp [afterAccesses_cons, respond, recordRetrieval, recordConfig, logAccess]

/-- Settles O44: all three writes succeed, and the continuous word has its mode bit clear. -/
theorem alertStartCompletes : Obligations.AlertStartCompletes := by
  rintro s rate ch1 ch2 thr c k hRate hPair hGain rfl hk hEnv
  have hMode := caWord_mode (inRange_of_mem_channelPairs hPair) hGain hRate
  rw [exec_alertStart_of_valid ⟨hRate, hPair, hGain⟩ hk, startContinuous_of_success hMode hEnv]

end Sys2Proof

/-! PROOFS. The codec (41_codec.md): its four commands as pure answers (R96), the round trip of a ConfigWord and of a
threshold (R95, R98), and the cause that any command's response names (R151, R154). -/

namespace Sys2Proof.Machine

/-! ### The response of a command -/

/-- The conditions of a list are looked at before those after it (R154). -/
theorem firstCause_append (l m : List (Bool × Cause)) : firstCause (l ++ m) = (firstCause l).or (firstCause m) := by
  induction l with
  | nil => rfl
  | cons p rest ih =>
    obtain ⟨failed, c⟩ := p
    cases failed with
    | true => rfl
    | false => exact ih

theorem not_thresholdOut_of_inRange {v : Variant} {t : Int} (h : InRange 0 (largestThreshold v) t) :
    ¬ ThresholdOut v t := by
  obtain ⟨hLow, hHigh⟩ := h
  cases v with
  | v12 | v16 =>
    simp only [largestThreshold] at hHigh
    simp only [ThresholdOut]
    omega

/-- ALERT_START fails no check when its prologue answers and its threshold, if it has one, is in range (R115). -/
theorem firstCause_alertStart_of_valid {s : State} {rate ch1 : Int} {ch2 thr : Option Int} {c : Int}
    (h : PrologueAnswers s rate ch1 ch2 c)
    (hk : InRange 0 (largestThreshold s.variant) (thr.getD (largestThreshold s.variant))) :
    firstCause (causesOf s (.alertStart rate ch1 ch2 thr)) = none := by
  simp only [causesOf, firstCause_append, firstCause_of_answers h, Option.none_or]
  cases thr with
  | none => rfl
  | some t =>
    have hThreshold : ¬ ThresholdOut s.variant t := not_thresholdOut_of_inRange hk
    simp only [firstCause, hThreshold, decide_false, Bool.false_eq_true, if_false]

theorem not_indexOut_registerNumber (reg : DevReg) : ¬ IndexOut (registerNumber reg) := by
  cases reg <;> decide

/-- A command ends in the ValidationError of its first failing check, or it fails no check (R151, R154). -/
theorem CommandEnds.firstCause_cases {i : Instr} {s t : State} (h : CommandEnds i s t) :
    (∃ c, firstCause (causesOf s i) = some c ∧ t = respond s (causeResponse c)) ∨ firstCause (causesOf s i) = none := by
  cases h with
  | invalid _ _ c hc => exact .inl ⟨c, hc, rfl⟩
  | codec _ _ _ _ hc => exact .inr hc
  | blockingWriteFails _ _ _ _ _ _ hp | blockingPolls _ _ _ _ _ _ _ hp | setConvFails _ _ _ _ _ _ hp
  | setConv _ _ _ _ _ _ hp | conversionStart _ _ _ _ _ _ hp => exact .inr (firstCause_of_answers hp)
  | alertStart _ _ _ _ _ _ _ hp hk => exact .inr (firstCause_alertStart_of_valid hp hk)
  | notPrimed | readRevReadFails | readRevWriteFails | readRev | alertReadFails | alertRead => exact .inr rfl
  | writeRegisterFails _ reg | writeRegister _ reg | readRegisterFails _ reg | readRegister _ reg =>
    exact .inr (by simp [causesOf, firstCause, not_indexOut_registerNumber])

/-- The responses of a command that is not rejected: OK with a value, or the adapter's error (R84, R156). -/
inductive OkOrTransportError : Response → Prop where
  | ok (v : Word16) : OkOrTransportError (valueResponse v)
  | transportError (e : TransportErr) : OkOrTransportError ⟨0x20000000, some e⟩

theorem eq_of_respond {s s1 : State} {r r1 : Response} (hResponses : s1.responses = s.responses)
    (hr : (respond s1 r1).responses = s.responses ++ [r]) : r1 = r := by
  simpa [hResponses] using hr

theorem PollEnds.okOrTransportError {s t : State} (h : PollEnds s t) {r : Response}
    (hr : t.responses = s.responses ++ [r]) : OkOrTransportError r := by
  cases h with
  | goesOn => simp at hr
  | sample => exact eq_of_respond rfl hr ▸ .ok _
  | readFails _ e | pollFails e => exact eq_of_respond rfl hr ▸ .transportError e

theorem StartEnds.okOrTransportError {hi w : Word16} {s t : State} (h : StartEnds hi w s t) {r : Response}
    (hr : t.responses = s.responses ++ [r]) : OkOrTransportError r := by
  cases h with
  | highFails e | lowFails _ e | configFails _ _ e => exact eq_of_respond rfl hr ▸ .transportError e
  | started => exact eq_of_respond rfl hr ▸ .ok 0

/-- The response of a command: OK or the adapter's error, or the first failing check, or the refusal of a READ_REV
without a cached word (R84, R154, R156, R161). -/
theorem CommandEnds.response_cases {i : Instr} {s t : State} (h : CommandEnds i s t) {r : Response}
    (hr : t.responses = s.responses ++ [r]) :
    OkOrTransportError r ∨ (∃ c, firstCause (causesOf s i) = some c ∧ r = causeResponse c) ∨
    (i = .readRev ∧ s.cfgValid = false ∧ r = ⟨0x31000000, none⟩) := by
  cases h with
  | invalid _ _ c hc => exact .inr (.inl ⟨c, hc, (eq_of_respond rfl hr).symm⟩)
  | notPrimed _ hv => exact .inr (.inr ⟨rfl, hv, (eq_of_respond rfl hr).symm⟩)
  | blockingPolls _ _ _ _ _ _ _ _ _ hPoll => exact .inl (hPoll.okOrTransportError hr)
  | alertStart _ _ _ _ _ _ _ _ _ hStart | conversionStart _ _ _ _ _ _ _ hStart =>
    exact .inl (hStart.okOrTransportError hr)
  | codec | readRev | alertRead | readRegister => exact .inl (eq_of_respond rfl hr ▸ .ok _)
  | setConv | writeRegister => exact .inl (eq_of_respond rfl hr ▸ .ok 0)
  | blockingWriteFails _ _ _ _ _ e | setConvFails _ _ _ _ _ e | readRevReadFails _ e | readRevWriteFails _ _ e
  | alertReadFails _ e | writeRegisterFails _ _ _ e | readRegisterFails _ _ e =>
    exact .inl (eq_of_respond rfl hr ▸ .transportError e)

/-- The status of an OK response is 0, whatever its value (R84). -/
theorem status_valueResponse (v : Word16) : (valueResponse v).rsp.extractLsb' 28 4 = 0 := by
  refine BitVec.eq_of_getLsbD_eq fun i _ => ?_
  simp [valueResponse, BitVec.getLsbD_of_ge v (28 + i) (by omega)]

theorem OkOrTransportError.status {r : Response} (h : OkOrTransportError r) :
    r.rsp.extractLsb' 28 4 = 0 ∨ r.rsp.extractLsb' 28 4 = 2 := by
  cases h with
  | ok v => exact .inl (status_valueResponse v)
  | transportError => exact .inr (by simp)

/-! ### The codec commands as pure answers -/

/-- The response word of a codec result: the encoded word, or the cause of its ValidationError (R84). -/
def resultWord : Except Cause Word16 → Word32
  | .ok w => responseWord 0 0 w
  | .error c => responseWord 1 (causeCode c) 0

theorem exec_encodeConfig (mode : ConvMode) (rate chan gain : Int) (cmp : Bool) (s : State) :
    exec (.encodeConfig mode rate chan gain cmp) s =
      .next (respond s ⟨resultWord (encodeConfig mode rate chan gain cmp), none⟩) := by
  rw [exec, execEncodeConfig]
  cases encodeConfig mode rate chan gain cmp <;> rfl

theorem exec_decodeConfig (raw : Word16) (s : State) : exec (.decodeConfig raw) s =
    .next (respond s ⟨resultWord (.ok (packFields (decodeConfig raw))), none⟩) := rfl

theorem exec_decodeSample (raw : Word16) (s : State) : exec (.decodeSample raw) s =
    .next (respond s ⟨resultWord (.ok (toU16 (decodeSample s.variant raw))), none⟩) := rfl

theorem exec_encodeThreshold (value : Int) (s : State) : exec (.encodeThreshold value) s =
    .next (respond s ⟨resultWord (encodeThreshold s.variant value), none⟩) := by
  rw [exec, execEncodeThreshold]
  cases encodeThreshold s.variant value <;> rfl

/-! ### The round trips -/

/-- A field is known by its bits. -/
theorem extractLsb'_eq_of_getLsbD {n lo len : Nat} {w : BitVec n} {x : BitVec len}
    (h : ∀ i < len, w.getLsbD (lo + i) = x.getLsbD i) : w.extractLsb' lo len = x :=
  BitVec.eq_of_getLsbD_eq fun i hi => by simp [hi, h i hi]

/-- Reading a packed ConfigWord gives back each field that was packed (R60, R93). -/
theorem decodeConfig_packConfig (os mode : BitVec 1) (chan gain rate : Int) (cmp : BitVec 5) :
    decodeConfig (packConfig os chan gain mode rate cmp) =
      ⟨os, BitVec.ofInt 3 chan, BitVec.ofInt 3 gain, mode, BitVec.ofInt 3 rate,
        if cmp.extractLsb' 0 2 = 0b11 then 0 else 1⟩ := by
  have hQueue : (packConfig os chan gain mode rate cmp).extractLsb' 0 2 = cmp.extractLsb' 0 2 := by
    refine extractLsb'_eq_of_getLsbD fun i hi => ?_
    simp (disch := omega) only [packConfig_getLsbD, if_pos, BitVec.getLsbD_extractLsb', hi, decide_true, Bool.true_and]
  simp only [decodeConfig, hQueue, ConfigFields.mk.injEq, and_true]
  refine ⟨?_, ?_, ?_, ?_, ?_⟩ <;> refine extractLsb'_eq_of_getLsbD fun i hi => ?_ <;>
    simp (disch := omega) only [packConfig_getLsbD, if_pos, if_neg, Nat.add_sub_cancel_left]

theorem natCast_toNat_ofInt_three {i : Int} (h : InRange 0 7 i) : ((BitVec.ofInt 3 i).toNat : Int) = i := by
  obtain ⟨n, rfl, hn⟩ := exists_nat_of_inRange (hi := 7) h
  rw [toNat_ofInt_three hn]

/-- A threshold that is encoded is in range, and the result is its raw form (R95). -/
theorem encodeThreshold_eq_ok_iff {v : Variant} {t : Int} {w : Word16} :
    encodeThreshold v t = .ok w ↔ InRange 0 (largestThreshold v) t ∧ thresholdWord v t = w := by
  rcases encodeThreshold_cases v t with ⟨h, hRange⟩ | ⟨h, hOut⟩
  · simpa [h] using fun _ => hRange
  · have hNotRange : ¬ InRange 0 (largestThreshold v) t := fun hRange => not_thresholdOut_of_inRange hRange hOut
    simp [h, hNotRange]

/-- The raw form of a threshold in range is a sample of that threshold (R95). -/
theorem sampleOf_thresholdWord {v : Variant} {t : Int} (h : InRange 0 (largestThreshold v) t) :
    sampleOf v (thresholdWord v t) = t := by
  obtain ⟨hLow, hHigh⟩ := h
  cases v with
  | v12 =>
    simp only [largestThreshold] at hHigh
    rw [thresholdWord, sampleOf, BitVec.toInt_ofInt_eq_self (by decide) (by omega) (by omega)]
    omega
  | v16 =>
    simp only [largestThreshold] at hHigh
    rw [thresholdWord, sampleOf, BitVec.toInt_ofInt_eq_self (by decide) (by omega) (by omega)]

/-- The raw form of a threshold in range has bit 15 clear, as that of the largest has (R95). -/
theorem thresholdWord_getLsbD_fifteen {v : Variant} {t : Int} (h : InRange 0 (largestThreshold v) t) :
    (thresholdWord v t).getLsbD 15 = false := by
  have hMax : (thresholdWord v (largestThreshold v)).toNat < 2 ^ 15 := by cases v <;> decide
  exact Nat.testBit_lt_two_pow ((toNat_thresholdWord_le h).trans_lt hMax)

end Sys2Proof.Machine

namespace Sys2Proof

open Sys2Proof.Machine

/-- Settles O25: a command with a failing check ends in no other way than with the first one's cause, and no other
response has status 1. -/
theorem firstFailingCauseIsReported : Obligations.FirstFailingCauseIsReported := by
  intro i s
  refine ⟨fun c hc => ?_, fun hNone t r h hr => ?_⟩
  · obtain ⟨t, h, hEnds⟩ := exec_ends i s
    rcases hEnds.firstCause_cases with ⟨c', hc', rfl⟩ | hNone
    · obtain rfl : c = c' := Option.some.inj (hc.symm.trans hc')
      exact h
    · simp [hc] at hNone
  · rcases (ends_of_exec h).response_cases hr with hOk | ⟨c, hc, -⟩ | ⟨-, -, rfl⟩
    · rcases hOk.status with hStatus | hStatus <;> simp [hStatus]
    · simp [hNone] at hc
    · decide

/-- Settles O35: each answer is a function of the operands and, for two of the commands, of the variant. -/
theorem codecCommandsArePure : Obligations.CodecCommandsArePure := by
  constructor
  · intro i hCodec
    cases i with
    | encodeConfig mode rate chan gain cmp =>
      exact ⟨fun _ => resultWord (encodeConfig mode rate chan gain cmp), exec_encodeConfig mode rate chan gain cmp⟩
    | decodeConfig raw => exact ⟨fun _ => resultWord (.ok (packFields (decodeConfig raw))), exec_decodeConfig raw⟩
    | decodeSample raw => exact ⟨fun v => resultWord (.ok (toU16 (decodeSample v raw))), exec_decodeSample raw⟩
    | encodeThreshold value => exact ⟨fun v => resultWord (encodeThreshold v value), exec_encodeThreshold value⟩
    | _ => simp [isCodec] at hCodec
  · rintro _ (⟨mode, rate, chan, gain, cmp, rfl⟩ | ⟨raw, rfl⟩)
    · exact ⟨_, exec_encodeConfig mode rate chan gain cmp⟩
    · exact ⟨_, exec_decodeConfig raw⟩

/-- Settles O36: the packed fields come back, and the thresholds and samples are those of the variant's range. -/
theorem codecLaws : Obligations.CodecLaws := by
  refine ⟨fun mode r c g cmp hGain hRate hChan => ?_, fun v => ?_, by decide, fun v t => ?_, fun v raw => ?_⟩
  · refine ⟨configWord mode r c g cmp, by simp [encodeConfig, hRate, hChan, hGain], ?_⟩
    have hGainField : InRange 0 7 g := ⟨hGain.1, by have := hGain.2; omega⟩
    rw [configWord, decodeConfig_packConfig]
    refine ⟨rfl, natCast_toNat_ofInt_three hChan, natCast_toNat_ofInt_three hGainField, rfl,
      natCast_toNat_ofInt_three hRate, ?_⟩
    cases cmp <;> rfl
  · cases v <;> decide
  · simp [encodeThreshold_eq_ok_iff, maxThr_eq]
  · rw [decodeSample_eq]
    cases v with
    | v12 => simpa [bitDepth] using (exists_sampleOf_v12 _).mp ⟨raw, rfl⟩
    | v16 => simpa [bitDepth] using (exists_sampleOf_v16 _).mp ⟨raw, rfl⟩

/-- Settles O37: an accepted threshold is in range, where its raw form is a sample of it. -/
theorem encodedThresholdDecodesToItself : Obligations.EncodedThresholdDecodesToItself := by
  intro v t w h
  obtain ⟨hRange, rfl⟩ := encodeThreshold_eq_ok_iff.mp h
  exact ⟨thresholdWord_getLsbD_fifteen hRange, (decodeSample_eq v _).trans (sampleOf_thresholdWord hRange)⟩

end Sys2Proof

/-! PROOFS. READ_REV, ALERT_READ and the failing ALERT_START and BLOCKING_READ (R112, R114, R115, R116, R157): one rule
for each shared operation whose access succeeds or fails, and the statements that follow from them. -/

namespace Sys2Proof.Machine

/-- A read that fails ends the command with the adapter's error (R111, R156). -/
theorem afterRead_of_failure {s : State} {reg : DevReg} {e : TransportErr} (h : nextAnswer s (.read reg) = .failure e)
    (k : Word16 → State → State) :
    afterRead (memRead s reg) k = raiseTransport (logAccess s (.readFailed reg e)) e := by
  rw [memRead_of_failure h, afterRead]

/-- A register-0 read that succeeds is recorded and gone on from (R123). -/
theorem readConversion_of_success {s : State} {raw : Word16} (h : nextAnswer s (.read .conversion) = .success raw)
    (k : Word16 → State → State) :
    readConversion s k = k raw (recordRetrieval (logAccess s (.didRead .conversion raw))) :=
  afterRead_of_success h _

/-- A ConfigWord write that fails ends the command unrecorded (R157). -/
theorem writeConfig_of_failure {s : State} {w : Word16} {e : TransportErr}
    (h : nextAnswer s (.write .config w) = .failure e) (k : State → State) :
    writeConfig s w k = raiseTransport (logAccess s (.writeFailed .config w e)) e :=
  afterWrite_of_failure h _

/-- What the environment does next is not changed by the record of a ConfigWord write. -/
theorem environmentDoes_recordConfig {s : State} {evs : List Event} (h : EnvironmentDoes s evs) (w : Word16) :
    EnvironmentDoes (recordConfig s w) evs := environmentDoes_congr (s := s) rfl rfl rfl h

/-- What the environment does next is not changed by a response. -/
theorem environmentDoes_respond {s : State} {evs : List Event} (h : EnvironmentDoes s evs) (r : Response) :
    EnvironmentDoes (respond s r) evs := environmentDoes_congr (s := s) rfl rfl rfl h

/-- READ_REV on a primed handle whose read succeeds goes on to rewrite the cached word with its start bit (R114). -/
theorem exec_readRev_of_read {s : State} {raw : Word16} (hPrimed : s.cfgValid = true)
    (hRead : nextAnswer s (.read .conversion) = .success raw) :
    exec .readRev s = .next (writeConfig (recordRetrieval (logAccess s (.didRead .conversion raw)))
      (s.cfgCache ||| 0x8000) fun s1 => deliverSample s1 raw) := by
  rw [exec, execReadRev, if_pos hPrimed, readConversion_of_success hRead]
  rfl

/-- A poll that fails ends the command, with nothing recorded (R112, R157). -/
theorem pollCompletion_of_poll_fails {s : State} {err : TransportErr}
    (h : EnvironmentDoes s [.readFailed .config err]) :
    pollCompletion s = raiseTransport (logAccess s (.readFailed .config err)) err := by
  obtain ⟨hPoll, -⟩ := h
  rw [pollCompletion, afterRead_of_failure hPoll]

/-- A complete poll whose read of register 0 fails ends the command, with nothing recorded (R112, R157). -/
theorem pollCompletion_of_read_fails {s : State} {p : Word16} {err : TransportErr} (hBit : p.getLsbD 15 = true)
    (h : EnvironmentDoes s [.didRead .config p, .readFailed .conversion err]) :
    pollCompletion s = raiseTransport (logAccess (logAccess s (.didRead .config p)) (.readFailed .conversion err))
      err := by
  obtain ⟨hPoll, hRead, -⟩ := h
  rw [pollCompletion, afterRead_of_success hPoll, completionBit, if_pos hBit, readConversion,
    afterRead_of_failure hRead]

/-- I-DOC's high threshold is the encoding of the variant's maximum (R117, D15). -/
theorem encodeThreshold_maxThr (v : Variant) : encodeThreshold v (maxThr v) = .ok (convstartHiDoc v) := by
  cases v <;> rfl

/-- With the named comparator field CONVERSION_START's word is ALERT_START's (R69, R117, D15). -/
theorem everyWord_cmpEveryNamed (rate c g : Int) :
    everyWord cmpEveryNamed rate c g = configWord .continuous rate c g true := rfl

end Sys2Proof.Machine

namespace Sys2Proof

open Sys2Proof.Machine

/-- Settles O43: the read and the write succeed, and the start bit leaves the mode bit of the cached word. -/
theorem readRevCompletes : Obligations.ReadRevCompletes := by
  rintro s raw hPrimed ⟨hRead, ⟨d, hWrite⟩, -⟩
  have hPhase : phaseAfterConfigWrite (s.cfgCache ||| 0x8000) =
      if s.cfgCache.getLsbD 8 then .singleShotArmed else .continuous := by
    rw [← withStartBit_mode]
    rfl
  rw [exec_readRev_of_read hPrimed hRead, writeConfig_of_success (by exact hWrite), deliverSample_eq, ← hPhase]
  simp [afterAccesses_cons, respond, recordRetrieval, recordConfig, logAccess, hPrimed]

/-- Settles O28: the read is recorded, the write is not. -/
theorem readRevWriteFailureLosesSample : Obligations.ReadRevWriteFailureLosesSample := by
  rintro s raw err hPrimed ⟨hRead, hWrite, -⟩
  rw [exec_readRev_of_read hPrimed hRead, writeConfig_of_failure (by exact hWrite), ← phaseAfterRetrieval_eq]
  simp [afterAccesses_cons, raiseTransport, respond, recordRetrieval, logAccess]

/-- Settles O45: the read is recorded and its sample delivered. -/
theorem alertReadCompletes : Obligations.AlertReadCompletes := by
  rintro s raw ⟨hRead, -⟩
  rw [exec, execAlertRead, readConversion_of_success hRead, deliverSample_eq, ← phaseAfterRetrieval_eq,
    afterAccesses_single]
  rfl

/-- Settles O29: one lemma about the three writes for each of the two failing writes. -/
theorem alertStartFailureLeavesMixedState : Obligations.AlertStartFailureLeavesMixedState := by
  rintro s rate ch1 ch2 thr c k err hRate hPair hGain rfl hk
  rw [exec_alertStart_of_valid ⟨hRate, hPair, hGain⟩ hk]
  constructor
  · intro hEnv
    rw [startContinuous_of_low_fails hEnv]
  · intro hEnv
    rw [startContinuous_of_config_fails hEnv]

/-- Settles O30: the write arms the phase, and neither failing read records anything. -/
theorem blockingReadFailureStaysArmed : Obligations.BlockingReadFailureStaysArmed := by
  intro s rate ch1 ch2 c p err hRate hPair hGain hBit
  rw [exec_blockingRead_of_valid ⟨hRate, hPair, hGain⟩,
    ← phaseAfterConfigWrite_of_set (ssWord_mode c s.gainIndex rate)]
  constructor
  · rintro ⟨⟨d, hWrite⟩, hReads⟩
    rw [writeConfig_of_success hWrite, pollCompletion_of_poll_fails (environmentDoes_recordConfig hReads _)]
    simp [afterAccesses_cons, raiseTransport, respond, recordConfig, logAccess]
  · rintro ⟨⟨d, hWrite⟩, hReads⟩
    rw [writeConfig_of_success hWrite, pollCompletion_of_read_fails hBit (environmentDoes_recordConfig hReads _)]
    simp [afterAccesses_cons, raiseTransport, respond, recordConfig, logAccess]

/-- Settles O47: the prologue is the same, and I-DOC's two parameters give ALERT_START's two words. -/
theorem conversionStartUnderIDocIsAlertStart : Obligations.ConversionStartUnderIDocIsAlertStart := by
  intro s rate ch1 ch2
  rw [exec, execAlertStart, conversionStartWith, Option.getD_none, encodeThreshold_maxThr]
  cases prepare s rate ch1 ch2 with
  | error cause => rfl
  | ok c => simp only [everyWord_cmpEveryNamed]

/-- Settles O51: the raw write leaves the cached word, which READ_REV then rewrites with its start bit. -/
theorem rawWriteIsUndoneByReadRev : Obligations.RawWriteIsUndoneByReadRev := by
  rintro s t u v raw hPrimed ⟨hRaw, hReadRev⟩ hWrite hRead
  have hFirst := writeRegisterCompletes s .config v ⟨hRaw, trivial⟩
  rw [afterAccesses_single] at hFirst
  obtain rfl : respond (logAccess s (.wrote .config v)) ⟨0, none⟩ = t :=
    Host.Outcome.next.inj (hFirst.symm.trans hWrite)
  have hSecond := readRevCompletes (respond (logAccess s (.wrote .config v)) ⟨0, none⟩) raw hPrimed
    (environmentDoes_respond hReadRev _)
  obtain rfl := Host.Outcome.next.inj (hSecond.symm.trans hRead)
  simp [afterAccesses, accessesOf]

end Sys2Proof

/-! PROOFS. A run of BLOCKING_READ (R112, R118, R164). Once its word is written the block is busy, and from there its
first poll and every further one do the same to the state. So a run of BLOCKING_READ is a run of a busy block: polls
that read bit 15 clear, each of which only logs its access, and then nothing more or the poll that reads it set. -/

namespace Sys2Proof.Machine

/-! ### Two lists of accesses, one after the other -/

theorem afterAccesses_append (s : State) (es fs : List Event) :
    afterAccesses s (es ++ fs) = afterAccesses (afterAccesses s es) fs := by
  induction es generalizing s with
  | nil => simp
  | cons e es ih => rw [List.cons_append, afterAccesses_cons, afterAccesses_cons, ih]

theorem environmentDoes_append {s : State} {es fs : List Event} : EnvironmentDoes s (es ++ fs) ↔
    EnvironmentDoes s es ∧ EnvironmentDoes (afterAccesses s es) fs := by
  induction es generalizing s with
  | nil => simp [EnvironmentDoes]
  | cons e es ih => rw [List.cons_append, environmentDoes_cons, environmentDoes_cons, afterAccesses_cons, ih, and_assoc]

/-! ### Polls of a busy block -/

/-- A poll of a busy block that reads bit 15 clear only logs its access (R112, R164). -/
theorem step_of_incomplete_poll {s : State} {p : Word16} (hBusy : s.busy = true) (hBit : p.getLsbD 15 = false)
    (hPoll : nextAnswer s (.read .config) = .success p) : step s = .next (logAccess s (.didRead .config p)) := by
  have hStays : { logAccess s (.didRead .config p) with busy := true } = logAccess s (.didRead .config p) := by
    rw [← hBusy]
    rfl
  rw [step_of_busy hBusy, pollCompletion, afterRead_of_success hPoll, completionBit, hBit, if_neg Bool.false_ne_true,
    hStays]

/-- A run of a busy block takes as many steps as there are polls that read bit 15 clear, and then goes on. -/
theorem run_of_incomplete_polls {s : State} {polls : List Word16} (hBusy : s.busy = true)
    (hBits : ∀ p ∈ polls, p.getLsbD 15 = false) (hEnv : EnvironmentDoes s (polls.map (.didRead .config))) (k : Nat) :
    Host.Core.run core (k + polls.length) s =
      Host.Core.run core k (afterAccesses s (polls.map (.didRead .config))) := by
  induction polls generalizing s with
  | nil => simp
  | cons p polls ih =>
    obtain ⟨hPoll, hRest⟩ := hEnv
    obtain ⟨hBit, hBits⟩ := List.forall_mem_cons.mp hBits
    rw [List.length_cons, ← Nat.add_assoc, run_succ _ (step_of_incomplete_poll hBusy hBit hPoll), List.map_cons,
      afterAccesses_cons]
    exact ih (by exact hBusy) hBits hRest

/-! ### From the command on the port to the busy block -/

/-- A run depends on its first state through the first step alone. -/
theorem core_run_succ_congr (M : Host.Core) (k : Nat) {s t : M.State} (h : M.step s = M.step t) :
    M.run (k + 1) s = M.run (k + 1) t := by
  simp only [Host.Core.run, h]

/-- The same for this block's `step`. -/
theorem run_succ_congr (k : Nat) {s t : State} (h : step s = step t) :
    Host.Core.run core (k + 1) s = Host.Core.run core (k + 1) t :=
  core_run_succ_congr core k h

/-- The block that has accepted a command, written the ConfigWord `w` and recorded it, and goes on. -/
def configWritten (s : State) (rest : List Word64) (w : Word16) : State :=
  recordConfig (logAccess (accept s rest) (.wrote .config w)) w

/-- What the environment does after that write. -/
theorem environmentDoes_configWritten {s : State} {w : Word16} {evs : List Event}
    (h : EnvironmentDoes s (.wrote .config w :: evs)) (rest : List Word64) :
    EnvironmentDoes (configWritten s rest w) evs :=
  environmentDoes_congr (s := logAccess s (.wrote .config w)) rfl rfl rfl h.2

/-- The step that accepts a BLOCKING_READ is the step of the busy block that has written its word (R112). -/
theorem step_of_blockingRead {s : State} {word : Word64} {rest : List Word64} {rate ch1 : Int} {ch2 : Option Int}
    {c : Int} {d : Word16} (hBusy : s.busy = false) (hPort : s.program = word :: rest)
    (hDecode : decode word = .ok (.blockingRead rate ch1 ch2)) (hValid : PrologueAnswers s rate ch1 ch2 c)
    (hWrite : nextAnswer s (.write .config (ssWord c s.gainIndex rate)) = .success d) :
    step s = step (configWritten s rest (ssWord c s.gainIndex rate)) := by
  rw [step_of_decoded hBusy hPort hDecode, exec_blockingRead_of_valid (s := accept s rest) hValid,
    writeConfig_of_success (by exact hWrite), step_of_busy (by rfl)]
  rfl

end Sys2Proof.Machine

namespace Sys2Proof

open Sys2Proof.Machine

/-- Settles O42: the polls of the busy block that has written its word. -/
theorem blockingReadNeverTimesOut : Obligations.BlockingReadNeverTimesOut := by
  intro s word rest rate ch1 ch2 c q polls hBusy hPort hDecode hRate hPair hGain hBits hEnv
  obtain ⟨d, hWrite⟩ := hEnv.1
  have hRun := run_of_incomplete_polls rfl hBits (environmentDoes_configWritten hEnv rest) 0
  rw [run_succ_congr _ (step_of_blockingRead hBusy hPort hDecode ⟨hRate, hPair, hGain⟩ hWrite), ← List.length_cons,
    ← Nat.zero_add (List.length _), hRun, ← phaseAfterConfigWrite_of_set (ssWord_mode c s.gainIndex rate),
    afterAccesses_cons]
  rfl

/-- Settles O41: the polls of the busy block that has written its word, and the one that ends them. -/
theorem blockingReadReturnsAfterAnyPolls : Obligations.BlockingReadReturnsAfterAnyPolls := by
  intro s word rest rate ch1 ch2 c polls p raw hBusy hPort hDecode hRate hPair hGain hBits hBit hEnv
  rw [List.cons_append] at hEnv ⊢
  obtain ⟨d, hWrite⟩ := hEnv.1
  obtain ⟨hPolls, hLast⟩ := environmentDoes_append.mp (environmentDoes_configWritten hEnv rest)
  have hIdle : phaseAfterRetrieval (phaseAfterConfigWrite (ssWord c s.gainIndex rate)) = .idle := by
    rw [phaseAfterConfigWrite_of_set (ssWord_mode c s.gainIndex rate)]
    rfl
  rw [run_succ_congr _ (step_of_blockingRead hBusy hPort hDecode ⟨hRate, hPair, hGain⟩ hWrite), Nat.add_comm,
    run_of_incomplete_polls rfl hBits hPolls, run_succ 0 (step_of_busy rfl), pollCompletion_of_complete hBit hLast,
    deliverSample_eq, afterAccesses_cons, afterAccesses_append, ← hIdle]
  simp [Host.Core.run, configWritten, afterAccesses, respond, recordRetrieval, recordConfig, accept, logAccess,
    accessesOf, hBusy]

end Sys2Proof

/-! PROOFS. How a poll and a command end (R112, R127, R156, R161): the accesses of a further poll, which response a
refusal is, and that a command with valid operands whose accesses all succeed makes all the requests of its plan. -/

namespace Sys2Proof.Machine

/-- A TransportError is the answer to a failed access, the last one (R156). -/
def FailsAtLast (s t : State) (err : TransportErr) : Prop :=
  ∃ evs e, t.trace = s.trace ++ accessesOf s (evs ++ [e]) ∧ failureOf e = some err

/-- The end of a command at its failed access `e`. -/
theorem FailsAtLast.of_respond {s s1 : State} {err err' : TransportErr} (evs : List Event) (e : Event)
    (hTrace : s1.trace = s.trace ++ accessesOf s (evs ++ [e])) (hFails : failureOf e = some err')
    (hResponses : s1.responses = s.responses)
    (hr : (respond s1 ⟨0x20000000, some err'⟩).responses = s.responses ++ [⟨0x20000000, some err⟩]) :
    FailsAtLast s (respond s1 ⟨0x20000000, some err'⟩) err := by
  obtain rfl : err' = err := by simpa using eq_of_respond hResponses hr
  exact ⟨evs, e, hTrace, hFails⟩

/-- A success in front of the accesses changes nothing about how they end. -/
theorem FailsAtLast.after {s s1 t : State} {err : TransportErr} {e : Event} (h : FailsAtLast s1 t err)
    (hTrace : s1.trace = s.trace ++ [⟨s.busAddr, e⟩]) (hAddr : s1.busAddr = s.busAddr) : FailsAtLast s t err := by
  obtain ⟨evs, e', hEvs, hFails⟩ := h
  exact ⟨e :: evs, e', by simp [hEvs, hTrace, accessesOf, hAddr], hFails⟩

theorem PollEnds.failsAtLast {s t : State} {err : TransportErr} (h : PollEnds s t)
    (hr : t.responses = s.responses ++ [⟨0x20000000, some err⟩]) : FailsAtLast s t err := by
  cases h with
  | goesOn => simp at hr
  | sample => simp [sampleResponse, valueResponse] at hr
  | readFails v e =>
    exact .of_respond [.didRead .config v] (.readFailed .conversion e) (by simp) rfl rfl hr
  | pollFails e => exact .of_respond [] (.readFailed .config e) (by simp) rfl rfl hr

theorem StartEnds.failsAtLast {hi w : Word16} {s t : State} {err : TransportErr} (h : StartEnds hi w s t)
    (hr : t.responses = s.responses ++ [⟨0x20000000, some err⟩]) : FailsAtLast s t err := by
  cases h with
  | started => simp at hr
  | highFails e => exact .of_respond [] (.writeFailed .highThreshold hi e) (by simp) rfl rfl hr
  | lowFails _ e =>
    exact .of_respond [.wrote .highThreshold hi] (.writeFailed .lowThreshold 0 e) (by simp) rfl rfl hr
  | configFails _ _ e =>
    exact .of_respond [.wrote .highThreshold hi, .wrote .lowThreshold 0] (.writeFailed .config w e) (by simp) rfl
      rfl hr

/-- A command answers TransportError only after a failed access (R156). -/
theorem CommandEnds.failsAtLast {i : Instr} {s t : State} {err : TransportErr} (h : CommandEnds i s t)
    (hr : t.responses = s.responses ++ [⟨0x20000000, some err⟩]) : FailsAtLast s t err := by
  cases h with
  | codec | invalid | notPrimed | setConv | readRev | alertRead | writeRegister | readRegister =>
    simp [valueResponse, causeResponse, sampleResponse] at hr
  | blockingPolls _ _ _ _ _ _ _ _ _ hPoll => exact (hPoll.failsAtLast hr).after rfl rfl
  | alertStart _ _ _ _ _ _ _ _ _ hStart | conversionStart _ _ _ _ _ _ _ hStart => exact hStart.failsAtLast hr
  | blockingWriteFails _ rate _ _ c e | setConvFails _ rate _ _ c e =>
    exact .of_respond [] (.writeFailed .config (ssWord c s.gainIndex rate) e) (by simp) rfl rfl hr
  | readRevReadFails _ e | alertReadFails _ e => exact .of_respond [] (.readFailed .conversion e) (by simp) rfl rfl hr
  | readRevWriteFails _ raw e =>
    exact .of_respond [.didRead .conversion raw] (.writeFailed .config (s.cfgCache ||| 0x8000) e) (by simp) rfl
      rfl hr
  | writeRegisterFails _ reg v e => exact .of_respond [] (.writeFailed reg v e) (by simp) rfl rfl hr
  | readRegisterFails _ reg e => exact .of_respond [] (.readFailed reg e) (by simp) rfl rfl hr

/-- Bit 15 of what a read of register 1 gave, when the access is that read. -/
theorem exists_didRead_config_iff {v : Word16} {b : Bool} :
    (∃ v', Event.didRead .config v = .didRead .config v' ∧ v'.getLsbD 15 = b) ↔ v.getLsbD 15 = b :=
  ⟨fun ⟨_, hRead, hBit⟩ => Event.didRead.inj hRead |>.2 ▸ hBit, fun hBit => ⟨v, rfl, hBit⟩⟩

/-- The first failing cause is a failing check (R151). -/
theorem exists_of_firstCause {l : List (Bool × Cause)} {c : Cause} (h : firstCause l = some c) :
    ∃ p ∈ l, p.1 = true := by
  induction l with
  | nil => simp [firstCause] at h
  | cons p rest ih =>
    obtain ⟨failed, cause⟩ := p
    cases failed with
    | true => exact ⟨(true, cause), List.mem_cons_self, rfl⟩
    | false =>
      obtain ⟨p, hMem, hFails⟩ := ih h
      exact ⟨p, List.mem_cons_of_mem _ hMem, hFails⟩

/-- The status of a ValidationError (R84). -/
theorem status_causeResponse (c : Cause) : (causeResponse c).rsp.extractLsb' 28 4 = 1 := by
  cases c <;> decide

/-- A command with valid operands that is not refused, and whose accesses all succeed, answers after all the requests of
its plan, unless it is a BLOCKING_READ that polls on (R48, R127). -/
theorem CommandEnds.completes_plan {i : Instr} {s t : State} {evs : List Event} (h : CommandEnds i s t)
    (hValid : ¬ OperandsInvalid s i) (hPrimed : i = .readRev → s.cfgValid = true)
    (hTrace : t.trace = s.trace ++ accessesOf s evs) (hSuccess : ∀ e ∈ evs, failureOf e = none) :
    (t.busy = true ∧ ∃ rate ch1 ch2, i = .blockingRead rate ch1 ch2) ∨
    (t.busy = false ∧ ∃ qs, RequestPlan s i qs ∧ evs.length = qs.length) := by
  rcases h.answers_or_pollsOn with ⟨hBusy, r, hr, -⟩ | ⟨⟨hBusy, -⟩, hBlocking⟩
  · have hOk : ¬ NotOk r := by
      rcases h.response_cases hr with ⟨⟨v⟩ | ⟨err⟩⟩ | ⟨c, hc, -⟩ | ⟨hReadRev, hNotPrimed, -⟩
      · exact not_not_intro (status_valueResponse v)
      · obtain ⟨evs', e, hEvs, hFails⟩ := h.failsAtLast hr
        obtain rfl := accessesOf_injective s (List.append_cancel_left (hTrace.symm.trans hEvs))
        simp [hSuccess e] at hFails
      · exact absurd (exists_of_firstCause hc) hValid
      · simp [hPrimed hReadRev] at hNotPrimed
    rcases h.rejected_or_carriesOut with ⟨r', rfl, hNotOk⟩ | ⟨qs, evs', hPlan, hCarries⟩
    · exact absurd (eq_of_respond rfl hr ▸ hNotOk) hOk
    · obtain rfl := accessesOf_injective s (List.append_cancel_left (hTrace.symm.trans hCarries.trace))
      exact .inr ⟨hBusy, qs, hPlan, by rw [← hCarries.completes r hr hOk, List.length_map]⟩
  · exact .inl ⟨hBusy, hBlocking⟩

end Sys2Proof.Machine

namespace Sys2Proof

open Sys2Proof.Machine

/-- Settles O15, by cases on the ends of a poll. -/
theorem pollFollowsAccessMatrix : Obligations.PollFollowsAccessMatrix := by
  intro s t hBusy h
  cases ends_of_busy_step hBusy h with
  | goesOn v _ hBit =>
    refine ⟨.didRead .config v, [], by simp, rfl, ?_⟩
    simp only [exists_didRead_config_iff, hBit]
    simp
  | sample v raw _ hBit =>
    refine ⟨.didRead .config v, [.didRead .conversion raw], by simp, rfl, fun _ => ⟨_, rfl, rfl⟩, ?_⟩
    simp only [exists_didRead_config_iff, hBit]
    simp
  | readFails v e _ hBit =>
    refine ⟨.didRead .config v, [.readFailed .conversion e], by simp, rfl, fun _ => ⟨_, rfl, rfl⟩, ?_⟩
    simp only [exists_didRead_config_iff, hBit]
    simp
  | pollFails e => exact ⟨.readFailed .config e, [], by simp, rfl, by simp, by simp, by simp⟩

/-- Settles O26: of the responses a command can give, only the refusal has status 3. -/
theorem onlyUnprimedReadRevIsRefused : Obligations.OnlyUnprimedReadRevIsRefused := by
  have hRefused (s : State) (hNotPrimed : s.cfgValid = false) :
      exec .readRev s = .next (respond s ⟨0x31000000, none⟩) := by
    rw [exec, execReadRev, hNotPrimed]
    rfl
  refine ⟨hRefused, fun i s t r h hr => ⟨fun hStatus => ?_, ?_⟩⟩
  · rcases (ends_of_exec h).response_cases hr with hOk | ⟨c, -, rfl⟩ | ⟨hi, hNotPrimed, -⟩
    · rcases hOk.status with h' | h' <;> simp [h'] at hStatus
    · simp [status_causeResponse] at hStatus
    · exact ⟨hi, hNotPrimed⟩
  · rintro ⟨rfl, hNotPrimed⟩
    obtain rfl := Host.Outcome.next.inj ((hRefused s hNotPrimed).symm.trans h)
    rw [← eq_of_respond rfl hr]
    decide

/-- Settles O48: the count of a command that has ended is the length of its plan. -/
theorem accessCountsAreBounded : Obligations.AccessCountsAreBounded := by
  intro i s t evs hValid hPrimed h hTrace hSuccess
  rcases (ends_of_exec h).completes_plan hValid hPrimed hTrace hSuccess with
    ⟨hBusy, rate, ch1, ch2, rfl⟩ | ⟨hBusy, qs, hPlan, hLength⟩
  · simp [hBusy]
  · cases hPlan with
    | codec hi =>
      have hNone : evs = [] := List.length_eq_zero_iff.mp hLength
      cases i with
      | encodeConfig | decodeConfig | decodeSample | encodeThreshold => exact ⟨hNone, hBusy⟩
      | _ => simp [isCodec] at hi
    | blockingRead => exact fun _ => hLength.ge
    | setConv | readRev | alertStart | alertRead | conversionStart | writeRegister | readRegister =>
      exact ⟨hLength, hBusy⟩

end Sys2Proof

/-! PROOFS. The protocols (R119, R120): a command on the port N times, each of which answers a sample and leaves the
bookkeeping as it was, is N times its accesses and N samples. READ_REV is such a command while a single-shot word is
cached and the phase is armed, and ALERT_READ is one while the phase is Continuous. -/

namespace Sys2Proof.Machine

/-- A block with bookkeeping `b` runs `i` to a sample of any word `raw` by the accesses `evs raw`, and the bookkeeping
is `b` again. -/
def SamplesSteadily (i : Instr) (evs : Word16 → List Event) (b : Book) : Prop :=
  ∀ (s : State) (raw : Word16), bookOf s = b → EnvironmentDoes s (evs raw) →
    exec i s = .next (respond (afterAccesses s (evs raw)) (sampleResponse s.variant raw))

/-- The block that has run such a command from its port. -/
def afterSample (s : State) (rest : List Word64) (es : List Event) (raw : Word16) : State :=
  respond (afterAccesses (accept s rest) es) (sampleResponse s.variant raw)

/-- What the environment does after such a command. -/
theorem environmentDoes_afterSample {s : State} {es fs : List Event} (h : EnvironmentDoes s (es ++ fs))
    (rest : List Word64) (raw : Word16) : EnvironmentDoes (afterSample s rest es raw) fs :=
  environmentDoes_congr (s := afterAccesses s es) rfl rfl rfl (environmentDoes_append.mp h).2

theorem SamplesSteadily.step_eq {i : Instr} {word : Word64} {evs : Word16 → List Event} {s : State} {raw : Word16}
    {rest : List Word64} {fs : List Event} (h : SamplesSteadily i evs (bookOf s)) (hDecode : decode word = .ok i)
    (hBusy : s.busy = false) (hPort : s.program = word :: rest) (hEnv : EnvironmentDoes s (evs raw ++ fs)) :
    step s = .next (afterSample s rest (evs raw) raw) := by
  rw [step_of_decoded hBusy hPort hDecode]
  exact h (accept s rest) raw rfl (environmentDoes_congr (s := s) rfl rfl rfl (environmentDoes_append.mp hEnv).1)

/-- A run of N such commands. -/
theorem SamplesSteadily.run_eq {i : Instr} {word : Word64} {evs : Word16 → List Event} {s : State}
    {raws : List Word16} {rest : List Word64} (h : SamplesSteadily i evs (bookOf s)) (hDecode : decode word = .ok i)
    (hBusy : s.busy = false) (hPort : s.program = List.replicate raws.length word ++ rest)
    (hEnv : EnvironmentDoes s (raws.flatMap evs)) :
    Host.Core.run core raws.length s = .next { afterAccesses s (raws.flatMap evs) with
      program := rest, responses := s.responses ++ raws.map (sampleResponse s.variant) } := by
  induction raws generalizing s with
  | nil =>
    obtain rfl : s.program = rest := hPort
    simp [Host.Core.run]
  | cons raw raws ih =>
    rw [List.flatMap_cons] at hEnv ⊢
    rw [List.length_cons, List.replicate_succ, List.cons_append] at hPort
    have hRest := ih (s := afterSample s (List.replicate raws.length word ++ rest) (evs raw) raw) h rfl rfl
      (environmentDoes_afterSample hEnv _ raw)
    rw [List.length_cons, run_succ _ (h.step_eq hDecode hBusy hPort hEnv), hRest, afterAccesses_append]
    simp [afterSample, afterAccesses, accessesOf, respond, accept, hBusy]

/-- ALERT_READ leaves the phase Continuous (R116, R123). -/
theorem alertRead_samplesSteadily {b : Book} (hPhase : b.phase = .continuous) :
    SamplesSteadily .alertRead (fun raw => [.didRead .conversion raw]) b := by
  rintro s raw rfl hEnv
  have hStays : (if s.phase = .singleShotArmed then .idle else s.phase) = s.phase := by
    rw [show s.phase = .continuous from hPhase]
    rfl
  rw [alertReadCompletes s raw hEnv, hStays]
  rfl

/-- READ_REV writes a cached single-shot word again, and that arms the phase again (R114, R122). -/
theorem readRev_samplesSteadily {b : Book} (hValid : b.cfgValid = true) (hStart : b.cfgCache ||| 0x8000 = b.cfgCache)
    (hMode : b.cfgCache.getLsbD 8 = true) (hPhase : b.phase = .singleShotArmed) :
    SamplesSteadily .readRev (fun raw => [.didRead .conversion raw, .wrote .config b.cfgCache]) b := by
  rintro s raw rfl hEnv
  have hWord : s.cfgCache ||| 0x8000 = s.cfgCache := hStart
  have hArmed : (if s.cfgCache.getLsbD 8 then .singleShotArmed else .continuous) = s.phase := by
    rw [show s.cfgCache.getLsbD 8 = true from hMode, show s.phase = .singleShotArmed from hPhase]
    rfl
  have hRun := readRevCompletes s raw hValid
  rw [hWord, hArmed] at hRun
  exact hRun hEnv

/-- A run of READ_REVs on an armed block (R119). -/
theorem run_of_readRevs {s : State} {w : Word16} {raws : List Word16} {rest : List Word64} (hBusy : s.busy = false)
    (hValid : s.cfgValid = true) (hWord : s.cfgCache = w) (hStart : w ||| 0x8000 = w) (hMode : w.getLsbD 8 = true)
    (hPhase : s.phase = .singleShotArmed)
    (hPort : s.program = List.replicate raws.length 0x7000000000000000 ++ rest)
    (hEnv : EnvironmentDoes s (raws.flatMap fun raw => [.didRead .conversion raw, .wrote .config w])) :
    Host.Core.run core raws.length s = .next { afterAccesses s
        (raws.flatMap fun raw => [.didRead .conversion raw, .wrote .config w]) with
      program := rest, responses := s.responses ++ raws.map (sampleResponse s.variant) } := by
  subst hWord
  exact (readRev_samplesSteadily (b := bookOf s) hValid hStart hMode hPhase).run_eq (by decide) hBusy hPort hEnv

/-- The step that accepts a SET_CONV whose write succeeds (R113). -/
theorem step_of_setConv {s : State} {word : Word64} {rest : List Word64} {rate ch1 : Int} {ch2 : Option Int} {c : Int}
    {d : Word16} (hBusy : s.busy = false) (hPort : s.program = word :: rest)
    (hDecode : decode word = .ok (.setConv rate ch1 ch2)) (hValid : PrologueAnswers s rate ch1 ch2 c)
    (hWrite : nextAnswer s (.write .config (ssWord c s.gainIndex rate)) = .success d) :
    step s = .next (respond (configWritten s rest (ssWord c s.gainIndex rate)) ⟨0, none⟩) := by
  rw [step_of_decoded hBusy hPort hDecode, exec_setConv_of_valid (s := accept s rest) hValid,
    writeConfig_of_success (by exact hWrite)]
  rfl

end Sys2Proof.Machine

namespace Sys2Proof

open Sys2Proof.Machine

/-- Settles O53: N ALERT_READs in phase Continuous. -/
theorem continuousReadsNeedNoRetrigger : Obligations.ContinuousReadsNeedNoRetrigger := by
  intro s rest raws hBusy hPhase hPort hEnv
  rw [List.map_eq_flatMap] at hEnv ⊢
  exact (alertRead_samplesSteadily hPhase).run_eq (by decide) hBusy hPort hEnv

/-- Settles O52: SET_CONV caches a single-shot word and arms the phase, and N READ_REVs keep both. -/
theorem pipelineAlternatesReadAndRetrigger : Obligations.PipelineAlternatesReadAndRetrigger := by
  intro s word rest rate ch1 ch2 c raws hBusy hPort hDecode hRate hPair hGain hEnv
  obtain ⟨d, hWrite⟩ := hEnv.1
  have hReadRevs := environmentDoes_configWritten hEnv (List.replicate raws.length 0x7000000000000000 ++ rest)
  have hArmed := phaseAfterConfigWrite_of_set (ssWord_mode c s.gainIndex rate)
  have hRun := run_of_readRevs (s := respond (configWritten s (List.replicate raws.length 0x7000000000000000 ++ rest)
    (ssWord c s.gainIndex rate)) ⟨0, none⟩) rfl rfl rfl (ssWord_start c s.gainIndex rate)
    (ssWord_mode c s.gainIndex rate) hArmed rfl (environmentDoes_respond hReadRevs _)
  rw [run_succ _ (step_of_setConv hBusy hPort hDecode ⟨hRate, hPair, hGain⟩ hWrite), hRun, afterAccesses_cons, ← hArmed]
  simp [configWritten, afterAccesses, accessesOf, respond, recordConfig, logAccess, accept, hBusy]

end Sys2Proof

/-! PROOFS. The frame of the raw access commands (R140, R141): logging one access at most and answering is all they do. -/

namespace Sys2Proof.Machine

/-- Each end of a raw access command logs its one access, or none if the index is out of range, and answers. -/
theorem CommandEnds.eq_respond_of_raw {i : Instr} {s t : State} (h : CommandEnds i s t) (hi : isRaw i = true) :
    ∃ evs r, evs.length ≤ 1 ∧ t = respond (afterAccesses s evs) r := by
  cases h with
  | codec | invalid => exact ⟨[], _, Nat.zero_le 1, by rw [afterAccesses_nil]⟩
  | writeRegisterFails | writeRegister | readRegisterFails | readRegister =>
    exact ⟨[_], _, le_rfl, congrArg (respond · _) (afterAccesses_single s _).symm⟩
  | _ => simp [isRaw] at hi

end Sys2Proof.Machine

namespace Sys2Proof

open Sys2Proof.Machine

/-- Settles O19: `respond` sets busy and the responses only, and logged accesses leave the responses. -/
theorem rawAccessKeepsBookkeeping : Obligations.RawAccessKeepsBookkeeping :=
  fun _ _ _ hRaw h => (ends_of_exec h).eq_respond_of_raw hRaw

end Sys2Proof

/-! PROOFS. The exceptions (60_exceptions.md): no step stops the block (R150), an invalid operand ends the command
without effect (R152), and so does a failed access but for what the accesses before it have left (R156, R157). -/

namespace Sys2Proof.Machine

/-! ### Validation -/

/-- A failing check has a first one (R154). -/
theorem exists_firstCause {l : List (Bool × Cause)} (h : ∃ p ∈ l, p.1 = true) : ∃ c, firstCause l = some c := by
  induction l with
  | nil => simp at h
  | cons p rest ih =>
    obtain ⟨failed, c⟩ := p
    cases failed with
    | true => exact ⟨c, rfl⟩
    | false => exact ih (by simpa using h)

/-! ### A failed access ends the command -/

/-- The adapter's error object, when the last access of a trace has failed. -/
def lastFailure (trace : List Access) : Option TransportErr := trace.getLast?.bind fun a => failureOf a.event

@[simp] theorem lastFailure_concat (trace : List Access) (a : Access) :
    lastFailure (trace ++ [a]) = failureOf a.event := by
  simp [lastFailure]

/-- `t` comes from `s` by a command or a poll that has ended in TransportError with the adapter's `err` (R156). -/
def EndsInTransportError (s t : State) (err : TransportErr) : Prop :=
  t.busy = false ∧ t.responses = s.responses ++ [transportResponse err]

theorem PollEnds.endsInTransportError {s t : State} {err : TransportErr} (h : PollEnds s t)
    (hFails : lastFailure t.trace = some err) : EndsInTransportError s t err := by
  cases h with
  | goesOn | sample => cases (lastFailure_concat _ _).symm.trans hFails
  | readFails | pollFails =>
    cases (lastFailure_concat _ _).symm.trans hFails
    exact ⟨rfl, rfl⟩

theorem StartEnds.endsInTransportError {hi w : Word16} {s t : State} {err : TransportErr} (h : StartEnds hi w s t)
    (hFails : lastFailure t.trace = some err) : EndsInTransportError s t err := by
  cases h with
  | started => cases (lastFailure_concat _ _).symm.trans hFails
  | highFails | lowFails | configFails =>
    cases (lastFailure_concat _ _).symm.trans hFails
    exact ⟨rfl, rfl⟩

/-- A command that has made an access, and whose last one failed, has ended in TransportError. -/
theorem CommandEnds.endsInTransportError {i : Instr} {s t : State} {err : TransportErr} (h : CommandEnds i s t)
    (hAccess : t.trace ≠ s.trace) (hFails : lastFailure t.trace = some err) : EndsInTransportError s t err := by
  cases h with
  | codec | invalid | notPrimed => exact absurd rfl hAccess
  | setConv | readRev | alertRead | writeRegister | readRegister =>
    cases (lastFailure_concat _ _).symm.trans hFails
  | blockingPolls _ _ _ _ _ _ _ _ _ hPoll => exact hPoll.endsInTransportError hFails
  | alertStart _ _ _ _ _ _ _ _ _ hStart | conversionStart _ _ _ _ _ _ _ hStart =>
    exact hStart.endsInTransportError hFails
  | blockingWriteFails | setConvFails | readRevReadFails | readRevWriteFails | alertReadFails | writeRegisterFails
  | readRegisterFails =>
    cases (lastFailure_concat _ _).symm.trans hFails
    exact ⟨rfl, rfl⟩

/-- Requests are made up to the first failure, so an access that has failed is the last one. -/
theorem CarriesOut.eq_concat_of_failure {qs : List Request} {s t : State} {evs : List Event} {e : Event}
    {err : TransportErr} (h : CarriesOut qs s t evs) (he : e ∈ evs) (hFails : failureOf e = some err) :
    ∃ es, evs = es ++ [e] := by
  refine ⟨evs.dropLast, ?_⟩
  have hne := List.ne_nil_of_mem he
  have hLast : e = evs.getLast hne := by
    by_contra hOther
    have hNone := h.stops e (List.mem_dropLast_of_mem_of_ne_getLast he hOther)
    simp [hFails] at hNone
  rw [hLast, List.dropLast_append_getLast]

/-- An access is made as the plan is carried out. -/
theorem CommandEnds.carriesOut_of_mem {i : Instr} {s t : State} {evs : List Event} {e : Event} (h : CommandEnds i s t)
    (hTrace : t.trace = s.trace ++ accessesOf s evs) (he : e ∈ evs) : ∃ qs, CarriesOut qs s t evs := by
  rcases h.rejected_or_carriesOut with ⟨r, rfl, -⟩ | ⟨qs, evs', -, hCarries⟩
  · obtain rfl : evs = [] := by simpa [accessesOf] using hTrace
    simp at he
  · obtain rfl := accessesOf_injective s (List.append_cancel_left (hTrace.symm.trans hCarries.trace))
    exact ⟨qs, hCarries⟩

/-! ### A failed first access -/

/-- An end at the first access, which fails with `err`: it is logged and answered, and that is all (R157). -/
def FailsAtFirst (kind : AccessKind) (err : TransportErr) (s t : State) : Prop :=
  ∃ e, kindOf (requestOf e) = kind ∧ failureOf e = some err ∧ t = respond (logAccess s e) ⟨0x20000000, some err⟩

theorem failsAtFirst_of_failure {s : State} {err err' : TransportErr} (e : Event)
    (hAll : ∀ q, nextAnswer s q = .failure err) (hAnswer : nextAnswer s (requestOf e) = .failure err')
    (hFails : failureOf e = some err') :
    FailsAtFirst (kindOf (requestOf e)) err s (respond (logAccess s e) ⟨0x20000000, some err'⟩) := by
  obtain rfl : err' = err := Answer.failure.inj (hAnswer.symm.trans (hAll _))
  exact ⟨e, rfl, hFails, rfl⟩

theorem StartEnds.failsAtFirst {hi w : Word16} {s t : State} {err : TransportErr} (h : StartEnds hi w s t)
    (hAll : ∀ q, nextAnswer s q = .failure err) : FailsAtFirst (.w .highThreshold) err s t := by
  cases h with
  | highFails e h1 => exact failsAtFirst_of_failure (.writeFailed .highThreshold hi e) hAll h1 rfl
  | lowFails _ _ h1 | configFails _ _ _ h1 | started _ _ _ h1 => simp [hAll] at h1

/-- A command that is neither rejected nor a codec command ends at its first access when the environment fails every
request. -/
theorem CommandEnds.failsAtFirst {i : Instr} {s t : State} {kind : AccessKind} {kinds : List AccessKind}
    {err : TransportErr} (h : CommandEnds i s t) (hValid : ¬ OperandsInvalid s i)
    (hPrimed : i = .readRev → s.cfgValid = true) (hKinds : accessMatrix i = kind :: kinds)
    (hAll : ∀ q, nextAnswer s q = .failure err) : FailsAtFirst kind err s t := by
  cases h with
  | invalid _ _ _ hc => exact absurd (exists_of_firstCause hc) hValid
  | notPrimed _ hNotPrimed => simp [hNotPrimed] at hPrimed
  | codec _ _ _ hi => simp [← (RequestPlan.codec (s := s) hi).map_kindOf] at hKinds
  | blockingPolls _ _ _ _ _ _ _ _ h1 | setConv _ _ _ _ _ _ _ h1 | readRevWriteFails _ _ _ _ h1
  | readRev _ _ _ _ h1 | alertRead _ _ h1 | writeRegister _ _ _ _ h1 | readRegister _ _ _ h1 => simp [hAll] at h1
  | alertStart _ _ _ _ _ _ _ _ _ hStart | conversionStart _ _ _ _ _ _ _ hStart =>
    cases hKinds
    exact hStart.failsAtFirst hAll
  | blockingWriteFails _ _ _ _ _ e _ h1 | setConvFails _ _ _ _ _ e _ h1 =>
    cases hKinds
    exact failsAtFirst_of_failure (.writeFailed .config _ e) hAll h1 rfl
  | readRevReadFails _ e _ h1 | alertReadFails _ e h1 =>
    cases hKinds
    exact failsAtFirst_of_failure (.readFailed .conversion e) hAll h1 rfl
  | writeRegisterFails _ reg v e h1 =>
    obtain ⟨rfl, -⟩ := List.cons.inj ((RequestPlan.writeRegister (s := s) reg v).map_kindOf.trans hKinds)
    exact failsAtFirst_of_failure (.writeFailed reg v e) hAll h1 rfl
  | readRegisterFails _ reg e h1 =>
    obtain ⟨rfl, -⟩ := List.cons.inj ((RequestPlan.readRegister (s := s) reg).map_kindOf.trans hKinds)
    exact failsAtFirst_of_failure (.readFailed reg e) hAll h1 rfl

end Sys2Proof.Machine

namespace Sys2Proof

open Sys2Proof.Machine

/-- Settles O8: the kinds of steps, of which a command's answers a next state as each of its ends does. -/
theorem everyStepAnswersNext : Obligations.EveryStepAnswersNext := by
  intro s
  rcases step_cases s with ⟨-, hPoll⟩ | ⟨-, -, hWait⟩ | ⟨_, _, _, -, -, -, hIllegal⟩ | ⟨_, rest, i, -, -, -, hRun⟩
  · exact ⟨_, hPoll⟩
  · exact ⟨_, hWait⟩
  · exact ⟨_, hIllegal⟩
  · obtain ⟨t, hNext, -⟩ := exec_ends i (accept s rest)
    exact ⟨t, hRun.trans hNext⟩

/-- Settles O17: a failed access is the last one made, and the ends of a command and of a poll at a failed last access
are TransportErrors. -/
theorem transportFailureEndsCommand : Obligations.TransportFailureEndsCommand := by
  refine ⟨fun i s t evs e err h hTrace he hFails => ?_, fun s t evs e err hBusy h hTrace he hFails => ?_⟩
  · have hEnds := ends_of_exec h
    obtain ⟨qs, hCarries⟩ := hEnds.carriesOut_of_mem hTrace he
    obtain ⟨es, rfl⟩ := hCarries.eq_concat_of_failure he hFails
    exact ⟨by simp, hEnds.endsInTransportError (by simp [hTrace]) (by simp [hTrace, hFails, ← List.append_assoc])⟩
  · have hEnds := ends_of_busy_step hBusy h
    obtain ⟨evs', hCarries⟩ := hEnds.carriesOut
    obtain rfl := accessesOf_injective s (List.append_cancel_left (hTrace.symm.trans hCarries.trace))
    obtain ⟨es, rfl⟩ := hCarries.eq_concat_of_failure he hFails
    exact ⟨by simp, hEnds.endsInTransportError (by simp [hTrace, hFails, ← List.append_assoc])⟩

/-- Settles O24: of the failing checks the first is answered, and with that answer nothing else happens. -/
theorem invalidOperandsEndWithoutEffect : Obligations.InvalidOperandsEndWithoutEffect := by
  intro i s hInvalid
  obtain ⟨c, hc⟩ := exists_firstCause hInvalid
  exact ⟨c, validationResponse_eq c ▸ (firstFailingCauseIsReported i s).1 c hc⟩

/-- Settles O27: the one end that is left, when the operands are valid and no request succeeds, is that at the first
access. -/
theorem firstAccessFailureChangesNothing : Obligations.FirstAccessFailureChangesNothing := by
  intro i s kind kinds err hValid hPrimed hKinds hAll
  obtain ⟨t, hNext, hEnds⟩ := exec_ends i s
  obtain ⟨e, hKind, hFails, rfl⟩ := hEnds.failsAtFirst hValid hPrimed hKinds hAll
  exact ⟨e, hKind, hFails, by rw [hNext, afterAccesses_single]; rfl⟩

end Sys2Proof
